-- ==== Sys2Proof/Word.lean ====
section
/-! DEFINITION. The word types of demod-conv (spec/20_memory.md R60, R64; spec/30_encoding.md R90). -/

namespace Sys2Proof

/-- A stream byte, `u8` of spec/00_scope.md R11. -/
abbrev Byte := BitVec 8

/-- A bus register (spec/00_scope.md R8: register width 32 bits). -/
abbrev Word := BitVec 32

/-- A 16-bit PCM word (spec/30_encoding.md R95). -/
abbrev PcmWord := BitVec 16

/-- The pattern of an IEEE 754 binary32 value (spec/00_scope.md R8, R12). -/
abbrev F32 := BitVec 32

/-- A bus transaction, format BUS (spec/30_encoding.md R91). -/
abbrev BusWord := BitVec 41

/-- An operation-select word, format OSW (spec/30_encoding.md R92). -/
abbrev OswWord := BitVec 16

end Sys2Proof
end

