-- ==== Sys2Proof/Config.lean ====
section
/-! DEFINITION. The parameters of spec/00_scope.md R8 and the free values of the spec. An `opaque` constant has
no body: a claim about it holds for every value. -/

namespace Sys2Proof

/-- The modulation variants of the decoder (spec/41_decoder.md R140). -/
inductive Mod where
  | am | wbfm | nbfm
  deriving DecidableEq, Repr, Inhabited

/-- What DEC.INIT passes to the decoder (spec/41_decoder.md R140, R141). -/
structure InitParams where
  inRate : Word
  outRate : Word
  bandwidth : Word
  maxDev : Word
  deriving DecidableEq, Repr, Inhabited

/-- `Decoder.S`, the decoder's hidden state (spec/10_state.md R42). DESIGN CHOICE (log 6): a state of the
decoder is held by its number in an enumeration of `Decoder.S`; nothing but the decoder reads it. -/
structure DecState where
  code : Nat
  deriving DecidableEq, Repr, Inhabited

/-- What one call of `decode` returns: the next state, the left sequence, and the right sequence or none
(spec/41_decoder.md R140). -/
structure Response where
  next : DecState
  left : List F32
  right : Option (List F32)
  deriving DecidableEq, Repr, Inhabited

/-- The decoder parameter (spec/41_decoder.md R140). -/
structure Decoder where
  init : Mod → InitParams → DecState
  decode : Mod → DecState → List F32 → Bool → Response
  deriving Inhabited

/-- The float-to-integer conversions of the quantizer (spec/00_scope.md R8, `Q_ROUND`). -/
inductive RoundMode where
  | trunc | rne
  deriving DecidableEq, Repr

/-- The spaces whose entries may be unspecified (spec/10_state.md R44, R45). -/
inductive Space where
  | raw | norm | audL | audR | ost
  deriving DecidableEq, Repr

namespace Config

/-- `U8_BIAS` (spec/00_scope.md R8). -/
def u8Bias : Int := 128

/-- `U8_DIV` (spec/00_scope.md R8, spec/90_conflicts.md C1). -/
def u8Div : Int := 128

/-- `I16_DIV` (spec/00_scope.md R8). -/
def i16Div : Int := 32768

/-- `Q_SCALE` (spec/00_scope.md R8). -/
def qScale : Int := 32767

/-- `Q_MAX` (spec/00_scope.md R8, spec/90_conflicts.md C2). -/
def qMax : Int := 32767

/-- `Q_MIN` (spec/00_scope.md R8, spec/90_conflicts.md C2). -/
def qMin : Int := -32767

/-- `Q_ROUND` at the value the spec fixes (spec/00_scope.md R8; log 17). -/
def qRound : RoundMode := .trunc

/-- The default block size, below which `MAX_BLOCK` never lies (spec/00_scope.md R8). -/
def defaultBlock : Nat := 65536

/-- By how many byte pairs `MAX_BLOCK` exceeds the default block size: free. -/
opaque extraBlockPairs : Nat

/-- `MAX_BLOCK`: any even number that is at least 65536 (spec/00_scope.md R8; log 15). -/
def maxBlock : Nat := defaultBlock + 2 * extraBlockPairs

/-- `MAX_FRAMES`: any number, or `none` for an unbounded model (spec/00_scope.md R8; log 16). -/
opaque maxFrames : Option Nat

/-- The `Decoder` parameter (spec/00_scope.md R8, R9). -/
opaque decoder : Decoder

/-- The decoder state that a DECODE step finds where no decoder was constructed; no run meets it
(spec/10_state.md R42; log 7). -/
opaque unconstructed : DecState

/-- `draw(u16)` of QNAN_RESULT: the word quantized from the NaN of that number (spec/42_quantizer.md R163;
log 9). -/
opaque nanWord : Nat → PcmWord

/-- M for a response of that many frames, where 32 bits cannot hold the count: free (spec/10_state.md R40,
spec/41_decoder.md R142; log 14). -/
opaque longFrameCount : Nat → Word

/-- A byte of RAW or OST that nothing has written (spec/10_state.md R44, R45; log 8). -/
opaque unwrittenByte : Space → Nat → Byte

/-- A binary32 entry of NORM, AUD_L or AUD_R that nothing has written (spec/10_state.md R44, R45; log 8). -/
opaque unwrittenF32 : Space → Nat → F32

/-- Sign and payload bits of the NaN that an invalid product or quotient gives; the machine forms none
(log 18). -/
opaque nanBits : F32 → F32 → BitVec 23

end Config

end Sys2Proof
end

