-- ==== Sys2Proof/Syntax.lean ====
section
/-! DEFINITION. The operations of demod-conv, one constructor per row of spec/opcode_table.json, and the
host-program lines of spec/30_encoding.md R102 and R103. -/

namespace Sys2Proof

/-- The sixteen operations (spec/30_encoding.md R98, R99). Core operations take no operand from their
encoding: each reads its operands from the state (R97). -/
inductive Instr where
  /-- SRST, spec/44_control.md R224. -/
  | srst
  /-- START, spec/44_control.md R222. -/
  | start
  /-- REG.WR, spec/44_control.md R220. -/
  | regWr (off : BitVec 8) (data : Word)
  /-- REG.RD, spec/44_control.md R221. -/
  | regRd (off : BitVec 8)
  /-- CHECK, spec/44_control.md R223. -/
  | check
  /-- DEC.INIT, spec/41_decoder.md R141. -/
  | decInit
  /-- READ.BLOCK, spec/43_streaming.md R190. -/
  | readBlock
  /-- NORM.U8, spec/40_normalizer.md R120. -/
  | normU8
  /-- NORM.I16, spec/40_normalizer.md R121. -/
  | normI16
  /-- DECODE.AM, spec/41_decoder.md R143. -/
  | decodeAm
  /-- DECODE.WBFM, spec/41_decoder.md R144. -/
  | decodeWbfm
  /-- DECODE.NBFM, spec/41_decoder.md R145. -/
  | decodeNbfm
  /-- EMIT.MONO, spec/42_quantizer.md R164. -/
  | emitMono
  /-- EMIT.STEREO, spec/42_quantizer.md R165. -/
  | emitStereo
  /-- QUANT.LIN, spec/42_quantizer.md R160. -/
  | quantLin
  /-- QUANT.SQ, spec/42_quantizer.md R161. -/
  | quantSq
  deriving DecidableEq, Repr

/-- An item of the input stream (spec/20_memory.md R65). -/
inductive InItem where
  | byte (b : Byte)
  | eos
  | err
  deriving DecidableEq, Repr

/-- What the Consumer does with a byte offered to it (spec/20_memory.md R70). -/
inductive OutAnswer where
  | accept
  | err
  deriving DecidableEq, Repr

/-- The register names of spec/10_state.md R21. -/
inductive RegName where
  | CFG | BLKSZ | IN_RATE | OUT_RATE | BANDWIDTH | MAX_DEV
  | CTRL | STATUS | BLKCNT | INCNT | OUTCNT | LASTN
  deriving DecidableEq, Repr

/-- The option names of CONFIG's `mod=` (spec/30_encoding.md R103). -/
inductive ModOption where
  | am | wbfm | nbfm
  deriving DecidableEq, Repr

/-- The option names of CONFIG's `enc=` (spec/30_encoding.md R103). -/
inductive EncOption where
  | u8 | i16
  deriving DecidableEq, Repr

/-- One line of a host program (spec/30_encoding.md R102) or a pseudo-instruction (R103). -/
inductive ProgLine where
  | wr (reg : RegName) (value : Word)
  | rd (reg : RegName)
  | inBytes (bytes : List Byte)
  | inEos
  | inErr
  | outErr
  | config (mod : ModOption) (enc : EncOption) (ch sq : Nat)
  | run
  | srst
  deriving DecidableEq, Repr

end Sys2Proof
end

