-- ==== Sys2Proof/WellFormed.lean ====
section
/-! DEFINITION. Which terms of `Instr` some BUS or OSW value selects (spec/30_encoding.md R98, R99). -/

namespace Sys2Proof

/-- The byte offset of CTRL (spec/10_state.md R21). -/
def ctrlOffset : BitVec 8 := 0x18

/-- A write that R98 reads as SRST or START, not as REG.WR: to CTRL, with START or SRST set. -/
def isCommandWrite (off : BitVec 8) (data : Word) : Bool :=
  off == ctrlOffset && (data.getLsbD 0 || data.getLsbD 1)

/-- DEC.INIT is performed inside CHECK and is selected by no word of its own (spec/41_decoder.md R141;
log 11). -/
def Instr.isSelected : Instr → Bool
  | .decInit => false
  | .srst | .start | .regWr _ _ | .regRd _ | .check | .readBlock | .normU8 | .normI16 => true
  | .decodeAm | .decodeWbfm | .decodeNbfm | .emitMono | .emitStereo | .quantLin | .quantSq => true

/-- A REG.WR term is not one of the two commands (spec/30_encoding.md R98). -/
def Instr.isPlainWrite : Instr → Bool
  | .regWr off data => !isCommandWrite off data
  | .srst | .start | .regRd _ | .check | .decInit | .readBlock | .normU8 | .normI16 => true
  | .decodeAm | .decodeWbfm | .decodeNbfm | .emitMono | .emitStereo | .quantLin | .quantSq => true

/-- The terms that decoding yields. -/
def Instr.wellFormed (i : Instr) : Bool :=
  i.isSelected && i.isPlainWrite

end Sys2Proof
end

