-- ==== Sys2Proof/Decode.lean ====
section
/-! DEFINITION. The decoder and the encoder of the two formats (spec/30_encoding.md R90 to R101). -/

namespace Sys2Proof

/-- Why an OSW value selects no operation (spec/30_encoding.md R99 to R101). -/
inductive DecodeError where
  /-- Bits [11:7] are not 0 (R92). -/
  | zeroField
  /-- PH is IDLE, DONE or FAULT: the Core has no step there (R99). -/
  | noStepPhase
  /-- PH is a code from 8 to 15, which never occurs (R101). -/
  | reservedPhase
  /-- PH is NORM and ENC is 2 or 3, which never occurs (R100). -/
  | reservedEnc
  /-- PH is DECODE and MOD is 3, which never occurs (R100). -/
  | reservedMod
  deriving DecidableEq, Repr

/-- A value of one of the two formats (spec/30_encoding.md R90). -/
inductive Encoded where
  | bus (w : BusWord)
  | osw (w : OswWord)
  deriving DecidableEq, Repr

/-- BUS field W, bit [40] (spec/30_encoding.md R91). -/
def busW (w : BusWord) : Bool := w.getLsbD 40

/-- BUS field OFF, bits [39:32] (spec/30_encoding.md R91). -/
def busOff (w : BusWord) : BitVec 8 := w.extractLsb' 32 8

/-- BUS field DATA, bits [31:0] (spec/30_encoding.md R91). -/
def busData (w : BusWord) : Word := w.extractLsb' 0 32

/-- The BUS value `{W, OFF, DATA}` (spec/30_encoding.md R91). -/
def busWord (write : Bool) (off : BitVec 8) (data : Word) : BusWord :=
  BitVec.ofBool write ++ off ++ data

/-- OSW field PH, bits [15:12] (spec/30_encoding.md R92). -/
def oswPh (w : OswWord) : BitVec 4 := w.extractLsb' 12 4

/-- OSW bits [11:7], always 0 (spec/30_encoding.md R92). -/
def oswZero (w : OswWord) : BitVec 5 := w.extractLsb' 7 5

/-- OSW field SQ, bit [6] (spec/30_encoding.md R92). -/
def oswSq (w : OswWord) : Bool := w.getLsbD 6

/-- OSW field NCH, bits [5:4] (spec/30_encoding.md R92). -/
def oswNch (w : OswWord) : BitVec 2 := w.extractLsb' 4 2

/-- OSW field ENC, bits [3:2] (spec/30_encoding.md R92). -/
def oswEnc (w : OswWord) : BitVec 2 := w.extractLsb' 2 2

/-- OSW field MOD, bits [1:0] (spec/30_encoding.md R92). -/
def oswMod (w : OswWord) : BitVec 2 := w.extractLsb' 0 2

/-- Host operations: the first row of spec/30_encoding.md R98 that matches. -/
def decodeBus (w : BusWord) : Instr :=
  if busW w && busOff w == ctrlOffset && (busData w).getLsbD 1 then .srst
  else if busW w && busOff w == ctrlOffset && (busData w).getLsbD 0 then .start
  else if busW w then .regWr (busOff w) (busData w)
  else .regRd (busOff w)

/-- The NORM row of spec/30_encoding.md R99. -/
def normRow (enc : BitVec 2) : Except DecodeError Instr :=
  if enc = 0 then .ok .normU8 else if enc = 1 then .ok .normI16 else .error .reservedEnc

/-- The DECODE row of spec/30_encoding.md R99. -/
def decodeRow (mod : BitVec 2) : Except DecodeError Instr :=
  if mod = 0 then .ok .decodeAm else if mod = 1 then .ok .decodeWbfm
  else if mod = 2 then .ok .decodeNbfm else .error .reservedMod

/-- The QUANT row that an EMIT word also matches: the scalar function EMIT applies (spec/30_encoding.md R99). -/
def quantRow (sq : Bool) : Instr :=
  if sq then .quantSq else .quantLin

/-- The operation of an EMIT word (spec/30_encoding.md R99). Where NCH is reserved no EMIT row matches and the
QUANT row alone does; no such word occurs (R100; DEDUCED, log 12). -/
def emitRow (nch : BitVec 2) (sq : Bool) : Instr :=
  if nch = 1 then .emitMono else if nch = 2 then .emitStereo else quantRow sq

/-- Core operations (spec/30_encoding.md R99). -/
def decodeOsw (w : OswWord) : Except DecodeError Instr :=
  if oswZero w ≠ 0 then .error .zeroField
  else match (oswPh w).toNat with
    | 1 => .ok .check
    | 2 => .ok .readBlock
    | 3 => normRow (oswEnc w)
    | 4 => decodeRow (oswMod w)
    | 5 => .ok (emitRow (oswNch w) (oswSq w))
    | 0 | 6 | 7 => .error .noStepPhase
    | _ => .error .reservedPhase

/-- Either format. -/
def decode : Encoded → Except DecodeError Instr
  | .bus w => .ok (decodeBus w)
  | .osw w => decodeOsw w

/-- The word of an operation. Ignored bits (START's and SRST's other data bits, a read's data, the OSW fields
that a row does not test) are written as the row's `match` has them in spec/opcode_table.json (log 25).
DEC.INIT has the word of the CHECK step that performs it. -/
def encode : Instr → Encoded
  | .srst => .bus (busWord true ctrlOffset 2)
  | .start => .bus (busWord true ctrlOffset 1)
  | .regWr off data => .bus (busWord true off data)
  | .regRd off => .bus (busWord false off 0)
  | .check => .osw 0x1000
  | .decInit => .osw 0x1000
  | .readBlock => .osw 0x2000
  | .normU8 => .osw 0x3000
  | .normI16 => .osw 0x3004
  | .decodeAm => .osw 0x4000
  | .decodeWbfm => .osw 0x4001
  | .decodeNbfm => .osw 0x4002
  | .emitMono => .osw 0x5010
  | .emitStereo => .osw 0x5020
  | .quantLin => .osw 0x5000
  | .quantSq => .osw 0x5040

/-- The `mask` and `match` of an operation's row of spec/opcode_table.json. -/
def Instr.row : Instr → Nat × Nat
  | .srst => (0x1FF00000002, 0x11800000002)
  | .start => (0x1FF00000003, 0x11800000001)
  | .regWr _ _ => (0x10000000000, 0x10000000000)
  | .regRd _ => (0x10000000000, 0x00000000000)
  | .check => (0xF000, 0x1000)
  | .decInit => (0xF000, 0x1000)
  | .readBlock => (0xF000, 0x2000)
  | .normU8 => (0xF00C, 0x3000)
  | .normI16 => (0xF00C, 0x3004)
  | .decodeAm => (0xF003, 0x4000)
  | .decodeWbfm => (0xF003, 0x4001)
  | .decodeNbfm => (0xF003, 0x4002)
  | .emitMono => (0xF030, 0x5010)
  | .emitStereo => (0xF030, 0x5020)
  | .quantLin => (0xF040, 0x5000)
  | .quantSq => (0xF040, 0x5040)

/-- The bits of an encoded value as one number. -/
def Encoded.bits : Encoded → Nat
  | .bus w => w.toNat
  | .osw w => w.toNat

/-- An encoded value matches the row of an operation: `value AND mask = match`. -/
def Instr.matchesRow (i : Instr) (e : Encoded) : Bool :=
  e.bits &&& i.row.1 == i.row.2

/-- What the decoder reads from `nbits` bits: at most 16 are an OSW value, more are a BUS value. -/
def decodeTableWord (nbits w : Nat) : Option Instr :=
  if nbits ≤ 16 then
    if w < 2 ^ 16 then (decodeOsw (BitVec.ofNat 16 w)).toOption else none
  else
    if w < 2 ^ 41 then some (decodeBus (BitVec.ofNat 41 w)) else none

end Sys2Proof
end

