-- ==== Sys2Proof/Machine/State.lean ====
section
/-! DEFINITION. Everything the spec gives the machine to hold (spec/10_state.md), the two streams
(spec/20_memory.md), the plans of the agents outside the Core, and the state after reset (spec/10_state.md
R44). -/

namespace Sys2Proof.Machine

/-- The sequencer's phase (spec/10_state.md R31). Codes 8 to 15 are never held. -/
inductive Phase where
  | idle | check | read | norm | decode | emit | done | fault
  deriving DecidableEq, Repr

/-- The fault codes of STATUS.ERR (spec/60_exceptions.md R241). All other values are never written. -/
inductive ErrCode where
  | none | cfgMod | cfgEnc | cfgNch | cfgBlk | ioRd | ioWr | decLen | decOvf
  deriving DecidableEq, Repr

/-- Whose turn a step is (spec/00_scope.md R7, spec/60_exceptions.md R247); `reset` is the platform's input RST
(spec/70_reset_and_hazards.md R270; log 20). -/
inductive Turn where
  | core | host | producer | consumer | reset
  deriving DecidableEq, Repr

/-- Values by index, in one canonical form: indices strictly rising, no index twice. An unlisted index has no
value of its own (spec/10_state.md R45). `Memory Byte` is a list of `Host.Cell`. -/
abbrev Memory (α : Type) := List (Nat × α)

/-- The state of demod-conv and of the agents around it. -/
structure State where
  /-- CFG (spec/10_state.md R22 to R26). -/
  cfg : Word
  /-- BLKSZ (spec/10_state.md R27). -/
  blksz : Word
  /-- IN_RATE (spec/10_state.md R28). -/
  inRate : Word
  /-- OUT_RATE (spec/10_state.md R28). -/
  outRate : Word
  /-- BANDWIDTH (spec/10_state.md R29). -/
  bandwidth : Word
  /-- MAX_DEV (spec/10_state.md R29). -/
  maxDev : Word
  /-- STATUS.PHASE, the sequencer (spec/10_state.md R31). -/
  phase : Phase
  /-- STATUS.EOS (spec/10_state.md R33). -/
  eos : Bool
  /-- STATUS.QNAN (spec/10_state.md R34). -/
  qnan : Bool
  /-- STATUS.ERR (spec/10_state.md R35). -/
  err : ErrCode
  /-- BLKCNT (spec/10_state.md R36). -/
  blkcnt : Word
  /-- INCNT (spec/10_state.md R37). -/
  incnt : Word
  /-- OUTCNT (spec/10_state.md R38). -/
  outcnt : Word
  /-- LASTN (spec/10_state.md R39). -/
  lastn : Word
  /-- `N`, bytes filled into RAW (spec/10_state.md R40). -/
  n : Word
  /-- `NS`, normalized samples of the block (spec/10_state.md R40). -/
  ns : Word
  /-- `M`, frames the decoder returned (spec/10_state.md R40; log 14). -/
  m : Word
  /-- `I`, the next frame to emit (spec/10_state.md R40). -/
  i : Word
  /-- `OST`, the output staging word, by byte (spec/10_state.md R40). -/
  ost : Memory Byte
  /-- `OLEN` (spec/10_state.md R40). -/
  olen : BitVec 3
  /-- `OPOS` (spec/10_state.md R40). -/
  opos : BitVec 3
  /-- `OCLOSED` (spec/10_state.md R43). -/
  oclosed : Bool
  /-- RAW (spec/10_state.md R41, spec/20_memory.md R61). -/
  raw : Memory Byte
  /-- NORM (spec/10_state.md R41, spec/20_memory.md R62). -/
  norm : Memory F32
  /-- AUD_L (spec/10_state.md R41, spec/20_memory.md R63). -/
  audL : Memory F32
  /-- AUD_R (spec/10_state.md R41, spec/20_memory.md R63). -/
  audR : Memory F32
  /-- `DSTATE` (spec/10_state.md R42): `none` where no decoder is constructed (R44). -/
  dstate : Option DecState
  /-- The item the Producer offers and the Core has not taken (spec/20_memory.md R66). -/
  offered : Option InItem
  /-- The Producer has offered EOS or ERR in this session (spec/20_memory.md R67). -/
  inEnded : Bool
  /-- The Consumer's answer to the byte offered to it (spec/20_memory.md R70). -/
  answer : Option OutAnswer
  /-- The bytes the Consumer has accepted in this session, oldest first (spec/20_memory.md R69). -/
  outBytes : List Byte
  /-- The accepted bytes of the sessions that resets ended (spec/70_reset_and_hazards.md R272; log 21). -/
  pastOutputs : List (List Byte)
  /-- The words that reads returned to the Host, oldest first (spec/44_control.md R221; log 19). -/
  hostReads : List Word
  /-- MODEL's own: whose turns come next (log 1). -/
  schedule : List Turn
  /-- MODEL's own: the transactions the Host is still to issue (log 1). -/
  hostQ : List BusWord
  /-- MODEL's own: the items the Producer is still to offer (log 1). -/
  producerQ : List InItem
  /-- MODEL's own: the answers the Consumer is still to give (log 1). -/
  consumerQ : List OutAnswer
  /-- MODEL's own: how many words QNAN_RESULT has drawn (log 9). -/
  draws : Nat
  /-- MODEL's own: the word the scalar quantizer returned last (log 10). -/
  qword : PcmWord
  deriving DecidableEq, Repr

/-- The stops of the model. The spec's own faults are no stop: they are next states in phase FAULT
(spec/60_exceptions.md R245). -/
inductive Fault where
  /-- Raised by `step` where the phase has a Core step and the OSW matches no row of spec/30_encoding.md R99.
  No such OSW occurs (R100). Safe: the machine stops (log 13). -/
  | noOperation (e : DecodeError)
  deriving DecidableEq, Repr

/-- The forms the model does not run. -/
inductive Refusal where
  /-- An instruction without a meaning; no arm of `exec` answers so. Safe. -/
  | notModelled (mnemonic : String)
  /-- Raised by DEC.INIT performed on its own with CFG.MOD = 3, for which spec/41_decoder.md R141 gives no
  variant; inside CHECK it cannot happen. Safe: the machine stops (log 11). -/
  | reservedModulation
  deriving DecidableEq, Repr

/-- The state after reset (spec/10_state.md R44). -/
def State.reset : State where
  cfg := 0x00000014
  blksz := 0x00010000
  inRate := 0x000FA000
  outRate := 0x0000BB80
  bandwidth := 0x00002710
  maxDev := 0x00002710
  phase := .idle
  eos := false
  qnan := false
  err := .none
  blkcnt := 0
  incnt := 0
  outcnt := 0
  lastn := 0
  n := 0
  ns := 0
  m := 0
  i := 0
  ost := []
  olen := 0
  opos := 0
  oclosed := false
  raw := []
  norm := []
  audL := []
  audR := []
  dstate := none
  offered := none
  inEnded := false
  answer := none
  outBytes := []
  pastOutputs := []
  hostReads := []
  schedule := []
  hostQ := []
  producerQ := []
  consumerQ := []
  draws := 0
  qword := 0

end Sys2Proof.Machine
end

