-- ==== Sys2Proof/Machine/Flags.lean ====
section
/-! DEFINITION. STATUS, its fields and their codes (spec/10_state.md R31 to R35, spec/60_exceptions.md R241).
EOS is set by READ.BLOCK and QNAN by the quantizer, each where that operation is defined. -/

namespace Sys2Proof.Machine

/-- The code of a phase (spec/10_state.md R31). -/
def Phase.code : Phase → BitVec 4
  | .idle => 0
  | .check => 1
  | .read => 2
  | .norm => 3
  | .decode => 4
  | .emit => 5
  | .done => 6
  | .fault => 7

/-- The phase of a code; 8 to 15 have none (spec/10_state.md R31). -/
def Phase.ofCode (c : BitVec 4) : Option Phase :=
  match c.toNat with
  | 0 => some .idle
  | 1 => some .check
  | 2 => some .read
  | 3 => some .norm
  | 4 => some .decode
  | 5 => some .emit
  | 6 => some .done
  | 7 => some .fault
  | _ => none

/-- The phases in which the Core has a step (spec/30_encoding.md R99). -/
def Phase.hasCoreStep : Phase → Bool
  | .check | .read | .norm | .decode | .emit => true
  | .idle | .done | .fault => false

/-- The run has ended (spec/70_reset_and_hazards.md R279). -/
def Phase.isTerminal : Phase → Bool
  | .done | .fault => true
  | .idle | .check | .read | .norm | .decode | .emit => false

/-- The fault codes (spec/60_exceptions.md R241). -/
def ErrCode.code : ErrCode → BitVec 8
  | .none => 0x00
  | .cfgMod => 0x01
  | .cfgEnc => 0x02
  | .cfgNch => 0x03
  | .cfgBlk => 0x04
  | .ioRd => 0x10
  | .ioWr => 0x11
  | .decLen => 0x20
  | .decOvf => 0x21

/-- What a read of STATUS returns: `{0x0000, ERR, 0b00, QNAN, EOS, phase}` (spec/44_control.md R221). -/
def State.statusWord (s : State) : Word :=
  0#16 ++ s.err.code ++ 0#2 ++ BitVec.ofBool s.qnan ++ BitVec.ofBool s.eos ++ s.phase.code

end Sys2Proof.Machine
end

