-- ==== Sys2Proof/Machine/Float.lean ====
section
/-! DEFINITION. IEEE 754 binary32 as spec/00_scope.md R12 uses it: round to nearest, ties to even, subnormals
kept (spec/92_eei_decisions.md D2, D3; log 18).

Every finite binary32 value is a whole multiple of 2^-149, so a magnitude is the natural number of those units
and every product and quotient is computed exactly before its one rounding. -/

namespace Sys2Proof.Machine

/-- Units of 2^-149 in 1. -/
def unitsPerOne : Nat := 2 ^ 149

/-- The pattern of +infinity. -/
def infBits : Nat := 0x7F800000

/-- The sign bit. -/
def signOf (x : F32) : Bool := x.getLsbD 31

/-- The 31 bits under the sign, which order the magnitudes. -/
def magBits (x : F32) : Nat := x.toNat % 2 ^ 31

/-- `isnan(x)` (spec/00_scope.md R12). -/
def isNaN (x : F32) : Bool := decide (infBits < magBits x)

/-- An infinity of either sign. -/
def isInf (x : F32) : Bool := magBits x == infBits

/-- The magnitude of a finite value in units of 2^-149. -/
def magOf (x : F32) : Nat :=
  let e := magBits x / 2 ^ 23
  let f := magBits x % 2 ^ 23
  if e = 0 then f else (2 ^ 23 + f) * 2 ^ (e - 1)

/-- A sign and 31 bits as a pattern. -/
def signed (neg : Bool) (bits : Nat) : F32 :=
  BitVec.ofNat 32 ((if neg then 2 ^ 31 else 0) + bits)

/-- The natural number nearest to `num / den`, ties to even. -/
def rneDiv (num den : Nat) : Nat :=
  let q := num / den
  let r := num % den
  if den < 2 * r ∨ (2 * r = den ∧ q % 2 = 1) then q + 1 else q

/-- The 31 bits of the binary32 value nearest to `num / den` units of 2^-149; a result beyond the largest
finite value is an infinity. -/
def roundBits (num den : Nat) : Nat :=
  let e := Nat.log2 (num / den) - 23
  min (e * 2 ^ 23 + rneDiv num (den * 2 ^ e)) infBits

/-- The correctly rounded binary32 value of plus or minus `num / den` units. -/
def roundRatio (neg : Bool) (num den : Nat) : F32 :=
  signed neg (roundBits num den)

/-- A NaN with free sign and payload (log 18). -/
def freeNaN (a b : F32) : F32 :=
  let p := Config.nanBits a b
  p.extractLsb' 22 1 ++ (0x1FF#9) ++ p.extractLsb' 0 22

section RealConversion

variable {K : Type} [Field K] [LinearOrder K] [FloorSemiring K]

/-- The natural number nearest to a value that is not negative, ties to even. -/
def nearestNat (y : K) : Nat :=
  let q := Nat.floor y
  let r := y - q
  if 1 < 2 * r ∨ (2 * r = 1 ∧ q % 2 = 1) then q + 1 else q

/-- `roundBits` of any magnitude, in units. -/
def realBits (units : K) : Nat :=
  let e := Nat.log2 (Nat.floor units) - 23
  min (e * 2 ^ 23 + nearestNat (units / 2 ^ e)) infBits

/-- `to_f32(v)` of a real `v` (spec/00_scope.md R12). No operation converts a real that is no integer. `K` is the
real numbers, or a subfield of them whose values can be computed, as the rational numbers. -/
def realToF32 (v : K) : F32 :=
  signed (decide (v < 0)) (realBits (|v| * (unitsPerOne : K)))

end RealConversion

/-- `to_f32(v)` of an integer (spec/00_scope.md R12). -/
def toF32 (v : Int) : F32 :=
  roundRatio (decide (v < 0)) (v.natAbs * unitsPerOne) 1

/-- `fmul(a, b)` (spec/00_scope.md R12). -/
def fmul (a b : F32) : F32 :=
  let neg := signOf a ^^ signOf b
  if isNaN a || isNaN b then freeNaN a b
  else if isInf a || isInf b then
    if magBits a == 0 || magBits b == 0 then freeNaN a b else signed neg infBits
  else roundRatio neg (magOf a * magOf b) unitsPerOne

/-- `fdiv(a, b)` (spec/00_scope.md R12). -/
def fdiv (a b : F32) : F32 :=
  let neg := signOf a ^^ signOf b
  if isNaN a || isNaN b then freeNaN a b
  else if isInf a then
    if isInf b then freeNaN a b else signed neg infBits
  else if isInf b then signed neg 0
  else if magBits b == 0 then
    if magBits a == 0 then freeNaN a b else signed neg infBits
  else roundRatio neg (magOf a * unitsPerOne) (magOf b)

/-- The position of a value that is no NaN in the order of the reals; +0.0 and -0.0 share one. -/
def orderKey (x : F32) : Int :=
  if signOf x then -(magBits x : Int) else magBits x

/-- `a < b`: false with a NaN operand (spec/00_scope.md R12). `a > b` is `fLt b a`. -/
def fLt (a b : F32) : Bool :=
  !isNaN a && !isNaN b && decide (orderKey a < orderKey b)

/-- `a = b`: false with a NaN operand, and true of +0.0 and -0.0 (spec/00_scope.md R12). -/
def fEq (a b : F32) : Bool :=
  !isNaN a && !isNaN b && decide (orderKey a = orderKey b)

/-- `trunc(y)` of a finite value, toward zero (spec/00_scope.md R12). -/
def truncF (y : F32) : Int :=
  let a : Int := (magOf y / unitsPerOne : Nat)
  if signOf y then -a else a

/-- `rne(y)` of a finite value, ties to even (spec/00_scope.md R12). -/
def rneF (y : F32) : Int :=
  let a : Int := rneDiv (magOf y) unitsPerOne
  if signOf y then -a else a

end Sys2Proof.Machine
end

