-- ==== Sys2Proof/Machine/Ops.lean ====
section
/-! DEFINITION. The named operations: buffers and OST (spec/20_memory.md R60 to R63), the two handshakes (R66,
R70), fault entry and reset, which is the one way out of FAULT (spec/60_exceptions.md R245, R251,
spec/70_reset_and_hazards.md R271), and the turns of the agents outside the Core. -/

namespace Sys2Proof.Machine

/-- The entry at an index; an unlisted index reads as no value (spec/10_state.md R45). -/
def Memory.read {α : Type} : Memory α → Nat → Option α
  | [], _ => none
  | (j, v) :: rest, k => if j = k then some v else Memory.read rest k

/-- One entry written, the indices kept rising. -/
def Memory.write {α : Type} : Memory α → Nat → α → Memory α
  | [], k, v => [(k, v)]
  | (j, w) :: rest, k, v =>
    if k < j then (k, v) :: (j, w) :: rest
    else if k = j then (k, v) :: rest
    else (j, w) :: Memory.write rest k v

/-- A sequence written from an index on, in order (spec/00_scope.md R14). -/
def Memory.writeFrom {α : Type} (mem : Memory α) (base : Nat) : List α → Memory α
  | [] => mem
  | v :: vs => Memory.writeFrom (mem.write base v) (base + 1) vs

/-- The canonical form: indices strictly rising. -/
def Memory.wf {α : Type} : Memory α → Bool
  | [] => true
  | [_] => true
  | a :: b :: rest => decide (a.1 < b.1) && Memory.wf (b :: rest)

/-- RAW[k]; a free value where nothing is written (log 8). -/
def State.rawAt (s : State) (k : Nat) : Byte :=
  (s.raw.read k).getD (Config.unwrittenByte .raw k)

/-- NORM[k]; a free value where nothing is written (log 8). -/
def State.normAt (s : State) (k : Nat) : F32 :=
  (s.norm.read k).getD (Config.unwrittenF32 .norm k)

/-- AUD_L[k]; a free value where nothing is written (log 8). -/
def State.audLAt (s : State) (k : Nat) : F32 :=
  (s.audL.read k).getD (Config.unwrittenF32 .audL k)

/-- AUD_R[k]; a free value where nothing is written (log 8). -/
def State.audRAt (s : State) (k : Nat) : F32 :=
  (s.audR.read k).getD (Config.unwrittenF32 .audR k)

/-- OST[k]; a free value where nothing is written (log 8). -/
def State.ostAt (s : State) (k : Nat) : Byte :=
  (s.ost.read k).getD (Config.unwrittenByte .ost k)

/-- DSTATE; a free value where no decoder is constructed, which no run meets (spec/10_state.md R42; log 7). -/
def State.decoderState (s : State) : DecState :=
  s.dstate.getD Config.unconstructed

/-- `raise Fault(code)` (spec/60_exceptions.md R245): the whole of fault entry. -/
def raiseFault (code : ErrCode) (s : State) : State :=
  { s with err := code, phase := .fault, oclosed := true }

/-- Reset, from every phase in one step (spec/70_reset_and_hazards.md R271). It starts a new session on both
streams: the offered item and the pending answer are dropped, and the bytes already accepted stay so (R272).
What the agents outside the Core have seen and plan to do is theirs and stays (log 22). There is no other
return from a fault (spec/60_exceptions.md R251). -/
def resetCore (s : State) : State :=
  { State.reset with
    pastOutputs := s.pastOutputs ++ [s.outBytes]
    hostReads := s.hostReads
    schedule := s.schedule
    hostQ := s.hostQ
    producerQ := s.producerQ
    consumerQ := s.consumerQ
    draws := s.draws }

/-- The Core offers a byte to the Consumer: phase EMIT with `OPOS < OLEN` (spec/42_quantizer.md R166). -/
def State.offersByte (s : State) : Bool :=
  decide (s.phase = .emit) && decide (s.opos < s.olen)

/-- EOS and ERR end what the Producer offers (spec/20_memory.md R67). -/
def endsStream : InItem → Bool
  | .byte _ => false
  | .eos | .err => true

/-- The Producer's turn: it offers its next item if none stands offered and it has offered neither EOS nor ERR
in this session (spec/20_memory.md R66, R67). -/
def producerTurn (s : State) : State :=
  match s.offered, s.inEnded, s.producerQ with
  | none, false, x :: rest => { s with offered := some x, inEnded := endsStream x, producerQ := rest }
  | _, _, _ => s

/-- The Consumer's turn: it answers the byte offered to it (spec/20_memory.md R70, R71; log 4). -/
def consumerTurn (s : State) : State :=
  match s.offersByte, s.answer, s.consumerQ with
  | true, none, a :: rest => { s with answer := some a, consumerQ := rest }
  | _, _, _ => s

end Sys2Proof.Machine
end

