-- ==== Sys2Proof/Machine/Operands.lean ====
section
/-! DEFINITION. The operand forms: the fields of CFG (spec/10_state.md R22 to R25), the OSW the Core forms
(spec/30_encoding.md R92), samples and PCM words (R93 to R96), and the sequences the decoder is given
(spec/41_decoder.md R142). -/

namespace Sys2Proof.Machine

/-- CFG.MOD (spec/10_state.md R22). -/
def State.cfgMod (s : State) : BitVec 2 := s.cfg.extractLsb' 0 2

/-- CFG.ENC (spec/10_state.md R23). -/
def State.cfgEnc (s : State) : BitVec 2 := s.cfg.extractLsb' 2 2

/-- CFG.NCH (spec/10_state.md R24). -/
def State.cfgNch (s : State) : BitVec 2 := s.cfg.extractLsb' 4 2

/-- CFG.SQ (spec/10_state.md R25). -/
def State.cfgSq (s : State) : Bool := s.cfg.getLsbD 6

/-- The per-run stereo flag, `NCH = 2` (spec/10_state.md R24). -/
def State.stereo (s : State) : Bool := s.cfgNch == 2

/-- `OSW = {phase, 0b00000, CFG[6:0]}` (spec/30_encoding.md R92). -/
def State.osw (s : State) : OswWord :=
  s.phase.code ++ 0#5 ++ s.cfg.extractLsb' 0 7

/-- The variant that CFG.MOD selects; 3 selects none (spec/41_decoder.md R141). -/
def modOf (c : BitVec 2) : Option Mod :=
  if c = 0 then some .am else if c = 1 then some .wbfm else if c = 2 then some .nbfm else none

/-- What DEC.INIT passes to the decoder (spec/41_decoder.md R141). -/
def State.initParams (s : State) : InitParams where
  inRate := s.inRate
  outRate := s.outRate
  bandwidth := s.bandwidth
  maxDev := s.maxDev

/-- A u8 sample: the byte as an unsigned value (spec/30_encoding.md R93). -/
def u8Sample (s : State) (k : Nat) : Int :=
  ((s.rawAt k).toNat : Int)

/-- An i16 sample: `sext_16({RAW[2k+1], RAW[2k]})` (spec/30_encoding.md R94, spec/20_memory.md R73). -/
def i16Sample (s : State) (k : Nat) : Int :=
  (s.rawAt (2 * k + 1) ++ s.rawAt (2 * k)).toInt

/-- A normalized u8 sample (spec/40_normalizer.md R120). -/
def normU8Value (b : Int) : F32 :=
  fdiv (toF32 (b - Config.u8Bias)) (toF32 Config.u8Div)

/-- A normalized i16 sample (spec/40_normalizer.md R121). -/
def normI16Value (v : Int) : F32 :=
  fdiv (toF32 v) (toF32 Config.i16Div)

/-- `[NORM[0], ..., NORM[NS-1]]` (spec/41_decoder.md R142). -/
def State.samples (s : State) : List F32 :=
  (List.range s.ns.toNat).map s.normAt

/-- The bytes of a PCM word, low byte first (spec/20_memory.md R74). -/
def pcmBytes (q : PcmWord) : List Byte :=
  [q.extractLsb' 0 8, q.extractLsb' 8 8]

end Sys2Proof.Machine
end

