-- ==== Sys2Proof/Machine/Control.lean ====
section
/-! DEFINITION. Host control: SRST, START, REG.WR, REG.RD, CHECK (spec/44_control.md), and DEC.INIT, which CHECK
performs (spec/41_decoder.md R141). -/

namespace Sys2Proof.Machine

/-- The byte offset of a register (spec/10_state.md R21). -/
def regOffset : RegName → BitVec 8
  | .CFG => 0x00
  | .BLKSZ => 0x04
  | .IN_RATE => 0x08
  | .OUT_RATE => 0x0C
  | .BANDWIDTH => 0x10
  | .MAX_DEV => 0x14
  | .CTRL => 0x18
  | .STATUS => 0x1C
  | .BLKCNT => 0x20
  | .INCNT => 0x24
  | .OUTCNT => 0x28
  | .LASTN => 0x2C

/-- The register at an offset; a misaligned offset and 0x30 to 0xFC have none (spec/20_memory.md R64,
spec/30_encoding.md R101). -/
def regAt (off : BitVec 8) : Option RegName :=
  match off.toNat with
  | 0x00 => some .CFG
  | 0x04 => some .BLKSZ
  | 0x08 => some .IN_RATE
  | 0x0C => some .OUT_RATE
  | 0x10 => some .BANDWIDTH
  | 0x14 => some .MAX_DEV
  | 0x18 => some .CTRL
  | 0x1C => some .STATUS
  | 0x20 => some .BLKCNT
  | 0x24 => some .INCNT
  | 0x28 => some .OUTCNT
  | 0x2C => some .LASTN
  | _ => none

/-- What a read of a register returns (spec/44_control.md R221). -/
def readReg (s : State) : RegName → Word
  | .CFG => s.cfg
  | .BLKSZ => s.blksz
  | .IN_RATE => s.inRate
  | .OUT_RATE => s.outRate
  | .BANDWIDTH => s.bandwidth
  | .MAX_DEV => s.maxDev
  | .CTRL => 0
  | .STATUS => s.statusWord
  | .BLKCNT => s.blkcnt
  | .INCNT => s.incnt
  | .OUTCNT => s.outcnt
  | .LASTN => s.lastn

/-- What a write of a register does in phase IDLE (spec/44_control.md R220): CTRL without a command bit and the
read-only registers ignore it. -/
def writeReg (data : Word) (s : State) : RegName → State
  | .CFG => { s with cfg := data &&& 0x0000007F }
  | .BLKSZ => { s with blksz := data &&& 0xFFFFFFFE }
  | .IN_RATE => { s with inRate := data }
  | .OUT_RATE => { s with outRate := data }
  | .BANDWIDTH => { s with bandwidth := data }
  | .MAX_DEV => { s with maxDev := data }
  | .CTRL | .STATUS | .BLKCNT | .INCNT | .OUTCNT | .LASTN => s

/-- A bus write: ignored at an offset without a register and outside IDLE (spec/44_control.md R220). -/
def busWrite (off : BitVec 8) (data : Word) (s : State) : State :=
  match regAt off with
  | none => s
  | some r => if s.phase = .idle then writeReg data s r else s

/-- The word a bus read returns: 0 at an offset without a register (spec/44_control.md R221). -/
def busRead (off : BitVec 8) (s : State) : Word :=
  match regAt off with
  | none => 0
  | some r => readReg s r

/-- `2 <= BLKSZ <= MAX_BLOCK` (spec/10_state.md R27). `MAX_BLOCK` is never below the default block size. -/
def blockLegal (b : Nat) : Bool :=
  decide (2 ≤ b) && (decide (b ≤ Config.defaultBlock) || decide (b ≤ Config.maxBlock))

/-- DEC.INIT for a variant (spec/41_decoder.md R141). -/
def constructDecoder (d : Decoder) (mod : Mod) (s : State) : State :=
  { s with dstate := some (d.init mod s.initParams) }

/-- CHECK (spec/44_control.md R223): the four tests in order, then DEC.INIT. -/
def checkConfig (d : Decoder) (s : State) : State :=
  match modOf s.cfgMod with
  | none => raiseFault .cfgMod s
  | some mod =>
    if s.cfgEnc = 2 ∨ s.cfgEnc = 3 then raiseFault .cfgEnc s
    else if s.cfgNch = 0 ∨ s.cfgNch = 3 then raiseFault .cfgNch s
    else if !blockLegal s.blksz.toNat then raiseFault .cfgBlk s
    else { constructDecoder d mod s with n := 0, phase := .read }

/-- SRST (spec/44_control.md R224). -/
def execSrst (s : State) : Host.Outcome State Fault Refusal :=
  .next (resetCore s)

/-- START (spec/44_control.md R222): ignored outside IDLE. -/
def execStart (s : State) : Host.Outcome State Fault Refusal :=
  .next (if s.phase = .idle then { s with phase := .check } else s)

/-- REG.WR (spec/44_control.md R220). -/
def execRegWr (off : BitVec 8) (data : Word) (s : State) : Host.Outcome State Fault Refusal :=
  .next (busWrite off data s)

/-- REG.RD (spec/44_control.md R221): the word goes to the Host and nothing else changes (spec/10_state.md R46;
log 19). -/
def execRegRd (off : BitVec 8) (s : State) : Host.Outcome State Fault Refusal :=
  .next { s with hostReads := s.hostReads ++ [busRead off s] }

/-- CHECK (spec/44_control.md R223). -/
def execCheck (s : State) : Host.Outcome State Fault Refusal :=
  .next (checkConfig Config.decoder s)

/-- DEC.INIT performed on its own (spec/41_decoder.md R141). MOD = 3 names no variant: refused (log 11). -/
def execDecInit (s : State) : Host.Outcome State Fault Refusal :=
  match modOf s.cfgMod with
  | none => .refused .reservedModulation
  | some mod => .next (constructDecoder Config.decoder mod s)

end Sys2Proof.Machine
end

