-- ==== Sys2Proof/Machine/DecoderCall.lean ====
section
/-! DEFINITION. The one decoder call of a block: DECODE.AM, DECODE.WBFM, DECODE.NBFM
(spec/41_decoder.md R142 to R146). -/

namespace Sys2Proof.Machine

/-- More frames than the frame buffers hold; an unbounded capacity is never exceeded (spec/41_decoder.md
R146). -/
def overflows (cap : Option Nat) (frames : Nat) : Bool :=
  match cap with
  | none => false
  | some c => decide (c < frames)

/-- The right sequence is present and as long as the left (spec/41_decoder.md R146). -/
def rightFits (r : Response) : Bool :=
  match r.right with
  | none => false
  | some right => right.length == r.left.length

/-- M for a response of `frames` frames (spec/41_decoder.md R142). M has 32 bits (spec/10_state.md R40); the spec
states no value for a count that they cannot hold, so it is free (log 14). -/
def frameCount (frames : Nat) : Word :=
  if frames < 2 ^ 32 then BitVec.ofNat 32 frames else Config.longFrameCount frames

/-- The state after a response that passes the checks (spec/41_decoder.md R142). -/
def acceptResponse (r : Response) (s : State) : State :=
  { s with
    dstate := some r.next
    m := frameCount r.left.length
    audL := s.audL.writeFrom 0 r.left
    audR := if s.stereo then s.audR.writeFrom 0 (r.right.getD []) else s.audR
    blkcnt := s.blkcnt + 1
    i := 0
    olen := 0
    opos := 0
    phase := .emit }

/-- The checks of a response, in order, before any state is written (spec/41_decoder.md R146). -/
def checkResponse (cap : Option Nat) (r : Response) (s : State) : State :=
  if overflows cap r.left.length then raiseFault .decOvf s
  else if s.stereo && !rightFits r then raiseFault .decLen s
  else acceptResponse r s

/-- The response to the call of this block (spec/41_decoder.md R142). -/
def responseOf (d : Decoder) (mod : Mod) (s : State) : Response :=
  d.decode mod s.decoderState s.samples s.stereo

/-- One DECODE step (spec/41_decoder.md R142). -/
def decodeBlock (d : Decoder) (cap : Option Nat) (mod : Mod) (s : State) : State :=
  checkResponse cap (responseOf d mod s) s

/-- DECODE.AM (spec/41_decoder.md R143). -/
def execDecodeAm (s : State) : Host.Outcome State Fault Refusal :=
  .next (decodeBlock Config.decoder Config.maxFrames .am s)

/-- DECODE.WBFM (spec/41_decoder.md R144). -/
def execDecodeWbfm (s : State) : Host.Outcome State Fault Refusal :=
  .next (decodeBlock Config.decoder Config.maxFrames .wbfm s)

/-- DECODE.NBFM (spec/41_decoder.md R145). -/
def execDecodeNbfm (s : State) : Host.Outcome State Fault Refusal :=
  .next (decodeBlock Config.decoder Config.maxFrames .nbfm s)

end Sys2Proof.Machine
end

