-- ==== Sys2Proof/Machine/Normalizer.lean ====
section
/-! DEFINITION. The sample normalizer: NORM.U8 and NORM.I16 (spec/40_normalizer.md). -/

namespace Sys2Proof.Machine

/-- NORM[0 .. count-1], NS and the phase written (spec/40_normalizer.md R124). -/
def storeNormalized (count : Word) (value : Nat → F32) (s : State) : State :=
  { s with
    norm := s.norm.writeFrom 0 ((List.range count.toNat).map value)
    ns := count
    phase := .decode }

/-- NORM.U8 (spec/40_normalizer.md R120): every byte is a sample. -/
def execNormU8 (s : State) : Host.Outcome State Fault Refusal :=
  .next (storeNormalized s.n (fun k => normU8Value (u8Sample s k)) s)

/-- NORM.I16 (spec/40_normalizer.md R121): `floor(N / 2)` samples, an odd last byte dropped. -/
def execNormI16 (s : State) : Host.Outcome State Fault Refusal :=
  .next (storeNormalized (s.n / 2) (fun k => normI16Value (i16Sample s k)) s)

end Sys2Proof.Machine
end

