-- ==== Sys2Proof/Machine/Streaming.lean ====
section
/-! DEFINITION. The block-streaming orchestrator: READ.BLOCK, the end of a fill and FINISH
(spec/43_streaming.md). -/

namespace Sys2Proof.Machine

/-- The end of a fill: LASTN, then DONE if the block is empty (END, spec/43_streaming.md R192), else NORM
(R191, R193). -/
def endFill (s : State) : State :=
  if s.n = 0 then { s with lastn := s.n, phase := .done, oclosed := true }
  else { s with lastn := s.n, phase := .norm }

/-- One item taken from the input stream, so no longer offered (spec/43_streaming.md R190, spec/20_memory.md R78;
log 23); without an offered item the Core waits (spec/20_memory.md R66; log 5). -/
def takeInput (s : State) : State :=
  match s.offered with
  | none => s
  | some (.byte b) =>
    { s with offered := none, raw := s.raw.write s.n.toNat b, n := s.n + 1, incnt := s.incnt + 1 }
  | some .eos => { s with offered := none, eos := true }
  | some .err => raiseFault .ioRd { s with offered := none }

/-- One step of a fill (spec/43_streaming.md R190). -/
def fillStep (s : State) : State :=
  if s.n = s.blksz ∨ s.eos = true then endFill s else takeInput s

/-- FINISH, EMIT to READ (spec/43_streaming.md R196). -/
def finishBlock (s : State) : State :=
  { s with n := 0, phase := .read }

/-- READ.BLOCK (spec/43_streaming.md R190). -/
def execReadBlock (s : State) : Host.Outcome State Fault Refusal :=
  .next (fillStep s)

end Sys2Proof.Machine
end

