-- ==== Sys2Proof/Machine/Quantizer.lean ====
section
/-! DEFINITION. The output quantizer and the emitter: QUANT.LIN, QUANT.SQ, EMIT.MONO, EMIT.STEREO
(spec/42_quantizer.md). -/

namespace Sys2Proof.Machine

/-- The clip to [-32767.0, 32767.0] (spec/42_quantizer.md R160). -/
def clip (y : F32) : F32 :=
  if fLt (toF32 Config.qMax) y then toF32 Config.qMax
  else if fLt y (toF32 Config.qMin) then toF32 Config.qMin
  else y

/-- The hard limit of squared mode (spec/42_quantizer.md R161). -/
def hardLimit (y : F32) : F32 :=
  if fLt (toF32 0) y then toF32 Config.qMax
  else if fLt y (toF32 0) then toF32 Config.qMin
  else toF32 0

/-- The float-to-integer conversion `Q_ROUND` (spec/42_quantizer.md R160). -/
def convert : RoundMode → F32 → Int
  | .trunc, y => truncF y
  | .rne, y => rneF y

/-- The scaled sample, rounded to binary32 (spec/42_quantizer.md R160; spec/92_eei_decisions.md D5). -/
def scaleSample (x : F32) : F32 :=
  fmul x (toF32 Config.qScale)

/-- QUANT.LIN of a sample that is no NaN, as an integer (spec/42_quantizer.md R160). -/
def linValue (mode : RoundMode) (x : F32) : Int :=
  convert mode (clip (scaleSample x))

/-- QUANT.SQ of a sample that is no NaN, as an integer (spec/42_quantizer.md R161). -/
def sqValue (x : F32) : Int :=
  truncF (clip (hardLimit (scaleSample x)))

/-- The integer a sample that is no NaN is quantized to, squared or not. -/
def quantValue (squared : Bool) (x : F32) : Int :=
  if squared then sqValue x else linValue Config.qRound x

/-- The scalar quantizer: a NaN sets QNAN and gives a free word (spec/42_quantizer.md R163; log 9), any other
sample its word. The word is returned in `qword` (log 10). -/
def quantize (squared : Bool) (x : F32) (s : State) : State :=
  if isNaN x then { s with qnan := true, qword := Config.nanWord s.draws, draws := s.draws + 1 }
  else { s with qword := BitVec.ofInt 16 (quantValue squared x) }

/-- The bytes of a frame put into OST, from byte 0 (spec/42_quantizer.md R164, R165). -/
def stageBytes (bytes : List Byte) (s : State) : State :=
  { s with ost := s.ost.writeFrom 0 bytes, olen := BitVec.ofNat 3 bytes.length, opos := 0 }

/-- STAGE of a mono run (spec/42_quantizer.md R164): AUD_R is not read. -/
def stageMono (s : State) : State :=
  let t := quantize s.cfgSq (s.audLAt s.i.toNat) s
  stageBytes (pcmBytes t.qword) t

/-- STAGE of a stereo run (spec/42_quantizer.md R165): left first, then right. -/
def stageStereo (s : State) : State :=
  let t := quantize s.cfgSq (s.audLAt s.i.toNat) s
  let u := quantize s.cfgSq (s.audRAt s.i.toNat) t
  stageBytes (pcmBytes t.qword ++ pcmBytes u.qword) u

/-- The state after the Consumer accepts the byte offered (spec/42_quantizer.md R166, spec/20_memory.md R70). -/
def acceptByte (s : State) : State :=
  let bytes := s.outBytes ++ [s.ostAt s.opos.toNat]
  if s.opos + 1 = s.olen then
    { s with answer := none, outBytes := bytes, outcnt := s.outcnt + 1, i := s.i + 1, olen := 0, opos := 0 }
  else { s with answer := none, outBytes := bytes, outcnt := s.outcnt + 1, opos := s.opos + 1 }

/-- WRITE (spec/42_quantizer.md R166): the handshake uses the answer up (log 23); without an answer the Core waits
(spec/20_memory.md R70; log 5). -/
def writeByte (s : State) : State :=
  match s.answer with
  | none => s
  | some .accept => acceptByte s
  | some .err => raiseFault .ioWr { s with answer := none }

/-- The one sub-step of an EMIT step that the state enables: WRITE, STAGE or FINISH (spec/42_quantizer.md
section 2, spec/43_streaming.md R196). Where none is, which no run meets, the Core is stuck (log 24). -/
def emitStep (stage : State → State) (s : State) : State :=
  if s.opos < s.olen then writeByte s
  else if s.olen = 0 ∧ s.i < s.m then stage s
  else if s.olen = 0 ∧ s.i = s.m then finishBlock s
  else s

/-- EMIT.MONO (spec/42_quantizer.md R164). -/
def execEmitMono (s : State) : Host.Outcome State Fault Refusal :=
  .next (emitStep stageMono s)

/-- EMIT.STEREO (spec/42_quantizer.md R165). -/
def execEmitStereo (s : State) : Host.Outcome State Fault Refusal :=
  .next (emitStep stageStereo s)

/-- QUANT.LIN on its own, of the left sample of frame I (spec/42_quantizer.md R160; log 10). -/
def execQuantLin (s : State) : Host.Outcome State Fault Refusal :=
  .next (quantize false (s.audLAt s.i.toNat) s)

/-- QUANT.SQ on its own, of the left sample of frame I (spec/42_quantizer.md R161; log 10). -/
def execQuantSq (s : State) : Host.Outcome State Fault Refusal :=
  .next (quantize true (s.audLAt s.i.toNat) s)

end Sys2Proof.Machine
end

