-- ==== Sys2Proof/Machine/Dispatch.lean ====
section
/-! DEFINITION. One arm per operation of spec/opcode_table.json. -/

namespace Sys2Proof.Machine

def exec (i : Instr) (s : State) : Host.Outcome State Fault Refusal :=
  match i with
  | .srst => Sys2Proof.Machine.execSrst s
  | .start => Sys2Proof.Machine.execStart s
  | .regWr off data => Sys2Proof.Machine.execRegWr off data s
  | .regRd off => Sys2Proof.Machine.execRegRd off s
  | .check => Sys2Proof.Machine.execCheck s
  | .decInit => Sys2Proof.Machine.execDecInit s
  | .readBlock => Sys2Proof.Machine.execReadBlock s
  | .normU8 => Sys2Proof.Machine.execNormU8 s
  | .normI16 => Sys2Proof.Machine.execNormI16 s
  | .decodeAm => Sys2Proof.Machine.execDecodeAm s
  | .decodeWbfm => Sys2Proof.Machine.execDecodeWbfm s
  | .decodeNbfm => Sys2Proof.Machine.execDecodeNbfm s
  | .emitMono => Sys2Proof.Machine.execEmitMono s
  | .emitStereo => Sys2Proof.Machine.execEmitStereo s
  | .quantLin => Sys2Proof.Machine.execQuantLin s
  | .quantSq => Sys2Proof.Machine.execQuantSq s

end Sys2Proof.Machine
end

