-- ==== Sys2Proof/Machine/Step.lean ====
section
/-! DEFINITION. One step: the turn at the head of the schedule, or the Core's where the schedule is empty
(spec/00_scope.md R6, R7; log 1). -/

namespace Sys2Proof.Machine

/-- The Core's turn: the operation its OSW selects (spec/30_encoding.md R99). In IDLE, DONE and FAULT the Core
has no step and nothing changes (log 5). -/
def coreTurn (s : State) : Host.Outcome State Fault Refusal :=
  if s.phase.hasCoreStep then
    match decodeOsw s.osw with
    | .ok i => exec i s
    | .error e => .fault (.noOperation e)
  else .next s

/-- The Host's turn: its next BUS transaction (spec/30_encoding.md R98). -/
def hostTurn (s : State) : Host.Outcome State Fault Refusal :=
  match s.hostQ with
  | [] => .next s
  | w :: rest => exec (decodeBus w) { s with hostQ := rest }

/-- One turn of an agent. -/
def takeTurn (t : Turn) (s : State) : Host.Outcome State Fault Refusal :=
  match t with
  | .core => coreTurn s
  | .host => hostTurn s
  | .producer => .next (producerTurn s)
  | .consumer => .next (consumerTurn s)
  | .reset => .next (resetCore s)

/-- One step of the machine. -/
def step (s : State) : Host.Outcome State Fault Refusal :=
  match s.schedule with
  | [] => coreTurn s
  | t :: rest => takeTurn t { s with schedule := rest }

/-- The state whose very next step runs the operation of a word. A BUS value is put first among the Host's
transactions and the Host has the turn. An OSW value is not fetched but formed from `phase` and CFG
(spec/30_encoding.md R92): its PH becomes the phase, its low seven bits CFG, and the Core has the turn (log 2).
A PH from 8 to 15 can be held by no phase and leaves the state as it is. -/
def State.withFetchWord (s : State) (nbits w : Nat) : State :=
  if nbits ≤ 16 then
    match Phase.ofCode (oswPh (BitVec.ofNat 16 w)) with
    | none => s
    | some p =>
      { s with
        phase := p
        cfg := (BitVec.ofNat 16 w &&& 0x007F).setWidth 32
        schedule := .core :: s.schedule }
  else
    { s with hostQ := BitVec.ofNat 41 w :: s.hostQ, schedule := .host :: s.schedule }

end Sys2Proof.Machine
end

