-- ==== Sys2Proof/Machine/Program.lean ====
section
/-! DEFINITION. Host programs as data: the lines of spec/30_encoding.md R102, the pseudo-instructions of R103, and
what each line is for the agents outside the Core. -/

namespace Sys2Proof.Machine

/-- `Mv` of CONFIG (spec/30_encoding.md R103). -/
def modValue : ModOption → Nat
  | .am => 0
  | .wbfm => 1
  | .nbfm => 2

/-- `E` of CONFIG (spec/30_encoding.md R103). -/
def encValue : EncOption → Nat
  | .u8 => 0
  | .i16 => 1

/-- The option a name stands for; a name outside the five has none (spec/30_encoding.md R103). -/
def modNamed (name : String) : Option ModOption :=
  if name = "am" then some .am else if name = "wbfm" then some .wbfm
  else if name = "nbfm" then some .nbfm else none

/-- The option a name stands for; a name outside the five has none (spec/30_encoding.md R103). -/
def encNamed (name : String) : Option EncOption :=
  if name = "u8" then some .u8 else if name = "i16" then some .i16 else none

/-- The value CONFIG writes: `s*64 + c*16 + E*4 + Mv` (spec/30_encoding.md R103). -/
def configValue (mod : ModOption) (enc : EncOption) (ch sq : Nat) : Word :=
  BitVec.ofNat 32 (sq * 64 + ch * 16 + encValue enc * 4 + modValue mod)

/-- The BUS values of a line (spec/30_encoding.md R102, R103). -/
def lineBus : ProgLine → List BusWord
  | .wr reg value => [busWord true (regOffset reg) value]
  | .rd reg => [busWord false (regOffset reg) 0]
  | .config mod enc ch sq => [busWord true (regOffset .CFG) (configValue mod enc ch sq)]
  | .run => [busWord true (regOffset .CTRL) 1]
  | .srst => [busWord true (regOffset .CTRL) 2]
  | .inBytes _ | .inEos | .inErr | .outErr => []

/-- The stream items of a line (spec/30_encoding.md R102). -/
def lineItems : ProgLine → List InItem
  | .inBytes bytes => bytes.map InItem.byte
  | .inEos => [.eos]
  | .inErr => [.err]
  | .wr _ _ | .rd _ | .config _ _ _ _ | .run | .srst | .outErr => []

/-- The Consumer's ERR of a line; it accepts every other byte (spec/30_encoding.md R102). -/
def lineAnswers : ProgLine → List OutAnswer
  | .outErr => [.err]
  | .wr _ _ | .rd _ | .inBytes _ | .inEos | .inErr | .config _ _ _ _ | .run | .srst => []

/-- A program handed to the Host and the Producer, and to the Consumer `accepts` acceptances before the ERR of
an OUT ERR line. Whose turn comes when is the schedule's. -/
def State.withProgram (s : State) (prog : List ProgLine) (accepts : Nat) : State :=
  { s with
    hostQ := s.hostQ ++ prog.flatMap lineBus
    producerQ := s.producerQ ++ prog.flatMap lineItems
    consumerQ := s.consumerQ ++ List.replicate accepts .accept ++ prog.flatMap lineAnswers }

end Sys2Proof.Machine
end

