-- ==== Sys2Proof/Safety.lean ====
section
/-! DEFINITION. The terms claims use: what a run's end and observation are, the premises a claim may take, and the
invariant of every state a run reaches. -/

namespace Sys2Proof.Machine

/-- `LenDet(Decoder)` (spec/41_decoder.md R149): a premise a claim may take. -/
def Decoder.LenDet (d : Decoder) : Prop :=
  ∀ mod s xs ys stereo, xs.length = ys.length →
    (d.decode mod s xs stereo).left.length = (d.decode mod s ys stereo).left.length

/-- Each variant ignores the tuning values it does not need (spec/41_decoder.md R141): a premise a claim may
take. -/
def Decoder.IgnoresUnused (d : Decoder) : Prop :=
  (∀ p v, d.init .am p = d.init .am { p with maxDev := v }) ∧
  (∀ p v, d.init .nbfm p = d.init .nbfm { p with bandwidth := v }) ∧
  (∀ p v w, d.init .wbfm p = d.init .wbfm { p with bandwidth := v, maxDev := w })

/-- The run's exit status (spec/44_control.md R225): success, failure, or not ended. R225 gives success for DONE with
ERR = 0 and failure for FAULT with ERR not 0. DESIGN CHOICE (log 28): in the two combinations that it does not give and
no run reaches, success is read from ERR = 0 alone, so FAULT with ERR = 0 is called success and DONE with ERR not 0
failure. -/
def State.exitStatus (s : State) : Option Bool :=
  match s.phase with
  | .done => some (decide (s.err = .none))
  | .fault => some (decide (s.err = .none))
  | .idle | .check | .read | .norm | .decode | .emit => none

/-- The Consumer sees end-of-stream (spec/20_memory.md R72). -/
def State.outputEnded (s : State) : Bool := s.oclosed

/-- What an ended run shows (spec/70_reset_and_hazards.md R279). -/
structure Observation where
  bytes : List Byte
  status : Word
  blkcnt : Word
  incnt : Word
  outcnt : Word
  lastn : Word
  deriving DecidableEq, Repr

/-- The observation of a state (spec/70_reset_and_hazards.md R279). -/
def State.observe (s : State) : Observation where
  bytes := s.outBytes
  status := s.statusWord
  blkcnt := s.blkcnt
  incnt := s.incnt
  outcnt := s.outcnt
  lastn := s.lastn

/-- Every piece of the spec's state holds its value after reset (spec/10_state.md R44; CTRL, which holds nothing,
reads 0), and both streams begin a new session (spec/70_reset_and_hazards.md R271). An unspecified entry has no
value. -/
structure ResetValues (s : State) : Prop where
  cfg : s.cfg = 0x00000014
  blksz : s.blksz = 65536
  inRate : s.inRate = 1024000
  outRate : s.outRate = 48000
  bandwidth : s.bandwidth = 10000
  maxDev : s.maxDev = 10000
  ctrl : readReg s .CTRL = 0
  status : s.phase = .idle ∧ s.eos = false ∧ s.qnan = false ∧ s.err = .none ∧ s.statusWord = 0
  counters : s.blkcnt = 0 ∧ s.incnt = 0 ∧ s.outcnt = 0 ∧ s.lastn = 0
  indices : s.n = 0 ∧ s.ns = 0 ∧ s.m = 0 ∧ s.i = 0 ∧ s.olen = 0 ∧ s.opos = 0 ∧ s.oclosed = false
  ost : ∀ k, s.ost.read k = none
  raw : ∀ k, s.raw.read k = none
  norm : ∀ k, s.norm.read k = none
  audio : ∀ k, s.audL.read k = none ∧ s.audR.read k = none
  dstate : s.dstate = none
  session : s.offered = none ∧ s.inEnded = false ∧ s.answer = none ∧ s.outBytes = []

/-- What the agents outside the Core have seen and still plan: a reset leaves it (log 22). -/
structure SameEnvironment (s t : State) : Prop where
  hostReads : t.hostReads = s.hostReads
  hostQ : t.hostQ = s.hostQ
  producerQ : t.producerQ = s.producerQ
  consumerQ : t.consumerQ = s.consumerQ

/-- Every index below a bound is listed, so a read below it is no free value. -/
def Memory.Filled {α : Type} (mem : Memory α) (bound : Nat) : Prop :=
  ∀ k, k < bound → (mem.read k).isSome = true

/-- Every listed index lies below a bound. -/
def Memory.Within {α : Type} (mem : Memory α) (bound : Nat) : Prop :=
  ∀ k, (mem.read k).isSome = true → k < bound

/-- A frame count fits the frame buffers (spec/20_memory.md R63). -/
def framesFit (cap : Option Nat) (frames : Nat) : Prop :=
  ∀ c, cap = some c → frames ≤ c

/-- The configuration passes CHECK (spec/44_control.md R223). -/
def State.configLegal (s : State) : Prop :=
  s.cfgMod ≠ 3 ∧ (s.cfgEnc = 0 ∨ s.cfgEnc = 1) ∧ (s.cfgNch = 1 ∨ s.cfgNch = 2) ∧
    2 ≤ s.blksz.toNat ∧ s.blksz.toNat ≤ Config.maxBlock

/-- A run is under way or has ended well, so CHECK has passed. -/
def Phase.afterCheck : Phase → Bool
  | .read | .norm | .decode | .emit | .done => true
  | .idle | .check | .fault => false

/-- A block is being processed. -/
def Phase.inBlock : Phase → Bool
  | .norm | .decode | .emit => true
  | .idle | .check | .read | .done | .fault => false

/-- The bytes of one frame (spec/30_encoding.md R96). -/
def State.frameBytes (s : State) : BitVec 3 :=
  if s.stereo then 4 else 2

/-- The bus registers and STATUS keep the form spec/10_state.md gives them. -/
structure RegistersInv (s : State) : Prop where
  /-- R26: CFG bits [31:7] read 0. -/
  cfgReserved : s.cfg &&& 0xFFFFFF80 = 0
  /-- R27: bit 0 of BLKSZ reads 0. -/
  blkszEven : s.blksz.getLsbD 0 = false
  /-- R43: OCLOSED is set exactly in DONE and FAULT. -/
  closed : s.oclosed = s.phase.isTerminal
  /-- R35, spec/60_exceptions.md R245: a code is held exactly in FAULT. -/
  errInFault : s.err ≠ .none ↔ s.phase = .fault
  /-- spec/44_control.md R223: past CHECK the configuration is legal. -/
  legal : s.phase.afterCheck = true → s.configLegal
  /-- spec/60_exceptions.md R242: before CHECK ends nothing is counted. -/
  untouched : s.phase = .idle ∨ s.phase = .check →
    s.eos = false ∧ s.err = .none ∧ s.blkcnt = 0 ∧ s.incnt = 0 ∧ s.outcnt = 0 ∧ s.lastn = 0
  /-- spec/60_exceptions.md R242: a configuration fault precedes every effect of the run. -/
  configFault : s.err = .cfgMod ∨ s.err = .cfgEnc ∨ s.err = .cfgNch ∨ s.err = .cfgBlk →
    s.eos = false ∧ s.dstate = none ∧ s.blkcnt = 0 ∧ s.incnt = 0 ∧ s.outcnt = 0 ∧ s.lastn = 0
  /-- spec/43_streaming.md R192: a run ends well only at end of stream. -/
  doneAtEos : s.phase = .done → s.eos = true

/-- The internal values stay in their bounds (spec/10_state.md R40) and every entry a rule reads has been written
(R45). -/
structure BuffersInv (s : State) : Prop where
  rawWf : s.raw.wf = true
  normWf : s.norm.wf = true
  audLWf : s.audL.wf = true
  audRWf : s.audR.wf = true
  ostWf : s.ost.wf = true
  rawWithin : s.raw.Within Config.maxBlock
  normWithin : s.norm.Within Config.maxBlock
  audLWithin : ∀ c, Config.maxFrames = some c → s.audL.Within c
  audRWithin : ∀ c, Config.maxFrames = some c → s.audR.Within c
  ostWithin : s.ost.Within 4
  nBound : s.n.toNat ≤ s.blksz.toNat ∧ s.n.toNat ≤ Config.maxBlock
  /-- spec/10_state.md R44, spec/44_control.md R223: no fill has begun. -/
  nUntouched : s.phase = .idle ∨ s.phase = .check → s.n = 0
  nsBound : s.ns.toNat ≤ Config.maxBlock
  mBound : framesFit Config.maxFrames s.m.toNat
  iBound : s.i ≤ s.m
  rawFilled : s.raw.Filled s.n.toNat
  normFilled : s.norm.Filled s.ns.toNat
  audLFilled : s.audL.Filled s.m.toNat
  audRFilled : s.phase = .emit → s.stereo = true → s.audR.Filled s.m.toNat
  ostFilled : s.ost.Filled s.olen.toNat

/-- The sequencer and the two streams agree. -/
structure StreamInv (s : State) : Prop where
  /-- spec/43_streaming.md R192, R193: a block in process is not empty, and LASTN is its byte count. -/
  blockNotEmpty : s.phase.inBlock = true → s.n ≠ 0 ∧ s.lastn = s.n
  /-- spec/40_normalizer.md R122. -/
  sampleCount : s.phase = .decode ∨ s.phase = .emit →
    s.ns.toNat = if s.cfgEnc = 0 then s.n.toNat else s.n.toNat / 2
  /-- spec/41_decoder.md R141, spec/10_state.md R44: DSTATE exists from CHECK on. -/
  decoderBuilt : s.phase.afterCheck = true → s.dstate.isSome = true
  decoderNone : s.phase = .idle ∨ s.phase = .check → s.dstate = none
  /-- spec/10_state.md R40: OST is empty, or holds the one frame I, of which OPOS bytes are written. -/
  staged : (s.olen = 0 ∧ s.opos = 0) ∨
    (s.opos < s.olen ∧ s.olen = s.frameBytes ∧ s.i < s.m ∧ (s.phase = .emit ∨ s.phase = .fault))
  /-- spec/20_memory.md R80: outside EMIT every frame of the earlier blocks has been written. -/
  flushed : s.phase ≠ .emit → s.phase ≠ .fault → s.i = s.m
  /-- spec/20_memory.md R70: an answer is to a byte offered. -/
  answered : s.answer ≠ none → s.offersByte = true
  /-- spec/20_memory.md R67: nothing follows EOS or ERR. -/
  lastOffer : ∀ x, s.offered = some x → endsStream x = s.inEnded
  /-- spec/10_state.md R33: EOS is set by taking the EOS item, and nothing is offered after it. -/
  eosTaken : s.eos = true → s.inEnded = true ∧ s.offered = none
  /-- spec/10_state.md R38: OUTCNT counts the accepted bytes. -/
  outCount : s.outcnt = BitVec.ofNat 32 s.outBytes.length

/-- What every state of every run meets. -/
structure StateInv (s : State) : Prop where
  registers : RegistersInv s
  buffers : BuffersInv s
  streams : StreamInv s

/-- Two states that may differ only in entries beyond the valid counts, which spec/10_state.md R45 says no rule
reads. -/
structure AgreeOnValid (s t : State) : Prop where
  rest : t = { s with raw := t.raw, norm := t.norm, audL := t.audL, audR := t.audR, ost := t.ost }
  raw : ∀ k, k < s.n.toNat → t.raw.read k = s.raw.read k
  norm : ∀ k, k < s.ns.toNat → t.norm.read k = s.norm.read k
  audL : ∀ k, k < s.m.toNat → t.audL.read k = s.audL.read k
  audR : s.phase = .emit → s.stereo = true → ∀ k, k < s.m.toNat → t.audR.read k = s.audR.read k
  ost : ∀ k, k < s.olen.toNat → t.ost.read k = s.ost.read k

/-- The turns of a fill that takes `items` items: the Producer offers, the Core takes, and one more Core step
ends the fill (spec/43_streaming.md R190, R198). -/
def fillTurns : Nat → List Turn
  | 0 => [.core]
  | k + 1 => .producer :: .core :: fillTurns k

/-- The turns of the bytes of one staged frame: the Consumer answers, the Core writes. -/
def writeTurns : Nat → List Turn
  | 0 => []
  | k + 1 => .consumer :: .core :: writeTurns k

/-- The turns of a block of frames: STAGE and its WRITEs for each, then FINISH (spec/43_streaming.md R198). -/
def emitTurns (bytesPerFrame : Nat) : Nat → List Turn
  | 0 => [.core]
  | k + 1 => .core :: (writeTurns bytesPerFrame ++ emitTurns bytesPerFrame k)

/-- A finite binary32 value as a whole number of units of 2^-149. -/
def signedUnits (x : F32) : Int :=
  if signOf x then -(magOf x : Int) else magOf x

/-- The samples of a frame, left then right (spec/30_encoding.md R96). -/
def State.frameSamples (s : State) (k : Nat) : List F32 :=
  if s.stereo then [s.audLAt k, s.audRAt k] else [s.audLAt k]

/-- The PCM word of a sample that is no NaN (spec/42_quantizer.md R160, R161). -/
def State.sampleWord (s : State) (x : F32) : PcmWord :=
  BitVec.ofInt 16 (quantValue s.cfgSq x)

/-- The bytes of `count` frames from frame `first` on: the PCM output block (spec/20_memory.md R81). -/
def State.blockBytes (s : State) (first count : Nat) : List Byte :=
  (List.range count).flatMap fun j =>
    (s.frameSamples (first + j)).flatMap fun x => pcmBytes (s.sampleWord x)

/-- The blocks of an input: `ceil(L / B)` of them, all full but the last (spec/43_streaming.md R200). -/
def blocksOf (size : Nat) (input : List Byte) : List (List Byte) :=
  (List.range ((input.length + size - 1) / size)).map fun k => (input.drop (size * k)).take size

/-- The normalized samples of a block, from its own bytes alone (spec/40_normalizer.md R120, R121, R124). -/
def blockSamples (i16 : Bool) (block : List Byte) : List F32 :=
  if i16 then
    (List.range (block.length / 2)).map fun k =>
      normI16Value (block.getD (2 * k + 1) 0 ++ block.getD (2 * k) 0).toInt
  else block.map fun b => normU8Value b.toNat

/-- The PCM output block of a response without a NaN: its first M frames, which are all of them wherever 32 bits hold
their count (spec/20_memory.md R81, spec/42_quantizer.md R164, R165; log 14). -/
def responseBytes (squared stereo : Bool) (r : Response) : List Byte :=
  let frames := (frameCount r.left.length).toNat
  let word (x : F32) : PcmWord := BitVec.ofInt 16 (quantValue squared x)
  if stereo then
    ((r.left.zip (r.right.getD [])).take frames).flatMap fun (x, y) => pcmBytes (word x) ++ pcmBytes (word y)
  else (r.left.take frames).flatMap fun x => pcmBytes (word x)

/-- The output of a sequence of blocks: one decoder call for each, in order, with the state the call before it
returned (spec/41_decoder.md R147). -/
def outputOf (d : Decoder) (mod : Mod) (i16 squared stereo : Bool) : DecState → List (List Byte) → List Byte
  | _, [] => []
  | ds, block :: rest =>
    let r := d.decode mod ds (blockSamples i16 block) stereo
    responseBytes squared stereo r ++ outputOf d mod i16 squared stereo r.next rest

/-- The state after reset with the plans of the agents: `input` is what the Producer offers before EOS. -/
def State.planned (turns : List Turn) (host : List BusWord) (input : List Byte) (later : List InItem)
    (answers : List OutAnswer) : State :=
  { State.reset with
    schedule := turns
    hostQ := host
    producerQ := input.map .byte ++ .eos :: later
    consumerQ := answers }

/-- No reset comes from these plans (spec/70_reset_and_hazards.md R272). -/
def noReset (turns : List Turn) (host : List BusWord) : Prop :=
  .reset ∉ turns ∧ ∀ w ∈ host, decodeBus w ≠ .srst

end Sys2Proof.Machine
end

