-- ==== Sys2Proof/Certificates/Slice0/Obligations.lean ====
section
/-! DEFINITION. The statements for the provers. Each docstring names the rule of spec/ it formalises. -/

open Sys2Proof Sys2Proof.Machine

/-! ### Reset and host control -/

/-- spec/10_state.md R44: the value of every piece of state after reset; an unspecified entry has no value (R45,
log 8). -/
def Obligations.ResetHoldsTheListedValues : Prop :=
  ResetValues State.reset

/-- spec/44_control.md R224, spec/70_reset_and_hazards.md R271: SRST resets from every state in one step. -/
def Obligations.SrstResetsFromEveryState : Prop :=
  ∀ s : State, ∃ t, exec .srst s = .next t ∧ ResetValues t

/-- spec/70_reset_and_hazards.md R270, R272: the input RST acts as SRST does; accepted bytes stay accepted. What
the other agents have seen and plan stays: the model's reading, log 20 to 22. -/
def Obligations.HardwareResetActsAsSrst : Prop :=
  ∀ (s : State) (rest : List Turn), s.schedule = .reset :: rest →
    step s = exec .srst { s with schedule := rest } ∧
    ∃ t, step s = .next t ∧ ResetValues t ∧ SameEnvironment s t ∧ t.schedule = rest ∧
      t.pastOutputs = s.pastOutputs ++ [s.outBytes]

/-- spec/44_control.md R222: START moves IDLE to CHECK and is ignored in any other phase. -/
def Obligations.StartMovesIdleToCheck : Prop :=
  ∀ s : State,
    (s.phase = .idle → exec .start s = .next { s with phase := .check }) ∧
    (s.phase ≠ .idle → exec .start s = .next s)

/-- spec/44_control.md R220: what a register write stores, and where it is ignored. -/
def Obligations.RegWriteStoresOnlyInIdle : Prop :=
  ∀ (off : BitVec 8) (data : Word) (s : State),
    (off.toNat % 4 ≠ 0 ∨ 0x30 ≤ off.toNat → exec (.regWr off data) s = .next s) ∧
    (off ∈ [0x18, 0x1C, 0x20, 0x24, 0x28, 0x2C] → exec (.regWr off data) s = .next s) ∧
    (s.phase ≠ .idle → exec (.regWr off data) s = .next s) ∧
    (s.phase = .idle →
      (off = 0x00 → exec (.regWr off data) s = .next { s with cfg := data &&& 0x0000007F }) ∧
      (off = 0x04 → exec (.regWr off data) s = .next { s with blksz := data &&& 0xFFFFFFFE }) ∧
      (off = 0x08 → exec (.regWr off data) s = .next { s with inRate := data }) ∧
      (off = 0x0C → exec (.regWr off data) s = .next { s with outRate := data }) ∧
      (off = 0x10 → exec (.regWr off data) s = .next { s with bandwidth := data }) ∧
      (off = 0x14 → exec (.regWr off data) s = .next { s with maxDev := data }))

/-- spec/44_control.md R221, spec/10_state.md R46: the word a read returns to the Host, recorded in `hostReads`
(log 19); nothing else changes. -/
def Obligations.RegReadReturnsTheRegister : Prop :=
  ∀ (off : BitVec 8) (s : State),
    let returns (v : Word) : Prop :=
      exec (.regRd off) s = .next { s with hostReads := s.hostReads ++ [v] }
    (off.toNat % 4 ≠ 0 ∨ 0x30 ≤ off.toNat → returns 0) ∧
    (off = 0x00 → returns s.cfg) ∧ (off = 0x04 → returns s.blksz) ∧
    (off = 0x08 → returns s.inRate) ∧ (off = 0x0C → returns s.outRate) ∧
    (off = 0x10 → returns s.bandwidth) ∧ (off = 0x14 → returns s.maxDev) ∧
    (off = 0x18 → returns 0) ∧
    (off = 0x1C → returns (0#16 ++ s.err.code ++ 0#2 ++ BitVec.ofBool s.qnan ++ BitVec.ofBool s.eos ++ s.phase.code)) ∧
    (off = 0x20 → returns s.blkcnt) ∧ (off = 0x24 → returns s.incnt) ∧
    (off = 0x28 → returns s.outcnt) ∧ (off = 0x2C → returns s.lastn)

/-- spec/10_state.md R32: the fields of STATUS, its read without side effect, and its value after reset. -/
def Obligations.StatusWordHoldsItsFields : Prop :=
  ∀ s : State,
    s.statusWord.extractLsb' 0 4 = s.phase.code ∧ s.statusWord.getLsbD 4 = s.eos ∧
    s.statusWord.getLsbD 5 = s.qnan ∧ s.statusWord.extractLsb' 6 2 = 0 ∧
    s.statusWord.extractLsb' 8 8 = s.err.code ∧ s.statusWord.extractLsb' 16 16 = 0 ∧
    exec (.regRd 0x1C) s = .next { s with hostReads := s.hostReads ++ [s.statusWord] } ∧
    State.reset.statusWord = 0

/-- spec/44_control.md R223: CHECK's tests in order, and the run it starts when all pass. -/
def Obligations.CheckFaultsInOrderOrStartsTheRun : Prop :=
  ∀ s : State,
    let faults (c : ErrCode) : Prop :=
      exec .check s = .next { s with err := c, phase := .fault, oclosed := true }
    let modBad := s.cfgMod = 3
    let encBad := s.cfgEnc = 2 ∨ s.cfgEnc = 3
    let nchBad := s.cfgNch = 0 ∨ s.cfgNch = 3
    let blkBad := s.blksz.toNat < 2 ∨ Config.maxBlock < s.blksz.toNat
    (modBad → faults .cfgMod) ∧
    (¬modBad → encBad → faults .cfgEnc) ∧
    (¬modBad → ¬encBad → nchBad → faults .cfgNch) ∧
    (¬modBad → ¬encBad → ¬nchBad → blkBad → faults .cfgBlk) ∧
    ∀ mod : Mod, (s.cfgMod = 0 ∧ mod = .am) ∨ (s.cfgMod = 1 ∧ mod = .wbfm) ∨ (s.cfgMod = 2 ∧ mod = .nbfm) →
      ¬encBad → ¬nchBad → ¬blkBad →
      exec .check s = .next { s with
        dstate := some (Config.decoder.init mod
          { inRate := s.inRate, outRate := s.outRate, bandwidth := s.bandwidth, maxDev := s.maxDev })
        n := 0
        phase := .read }

/-- spec/41_decoder.md R141: DEC.INIT constructs DSTATE and writes nothing else. That it stops on its own with
MOD = 3, for which the rule gives no variant, is the model's choice, log 11. -/
def Obligations.DecInitConstructsTheDecoder : Prop :=
  ∀ s : State,
    (∀ mod : Mod, (s.cfgMod = 0 ∧ mod = .am) ∨ (s.cfgMod = 1 ∧ mod = .wbfm) ∨ (s.cfgMod = 2 ∧ mod = .nbfm) →
      exec .decInit s = .next { s with
        dstate := some (Config.decoder.init mod
          { inRate := s.inRate, outRate := s.outRate, bandwidth := s.bandwidth, maxDev := s.maxDev }) }) ∧
    (s.cfgMod = 3 → exec .decInit s = .refused .reservedModulation)

/-! ### The fill -/

/-- spec/43_streaming.md R190 to R193: one item a step, or the end of the fill. That a wait is a step that changes
nothing and that the ERR item is used up is the model's choice, log 5 and 23. -/
def Obligations.ReadBlockTakesOneItemOrEndsTheFill : Prop :=
  ∀ s : State,
    let ends := s.n = s.blksz ∨ s.eos = true
    (ends → s.n = 0 → exec .readBlock s = .next { s with lastn := s.n, phase := .done, oclosed := true }) ∧
    (ends → s.n ≠ 0 → exec .readBlock s = .next { s with lastn := s.n, phase := .norm }) ∧
    (¬ends → s.offered = none → exec .readBlock s = .next s) ∧
    (¬ends → ∀ b, s.offered = some (.byte b) → ∃ raw,
      exec .readBlock s = .next { s with offered := none, raw := raw, n := s.n + 1, incnt := s.incnt + 1 } ∧
      ∀ k, raw.read k = if k = s.n.toNat then some b else s.raw.read k) ∧
    (¬ends → s.offered = some .eos → exec .readBlock s = .next { s with offered := none, eos := true }) ∧
    (¬ends → s.offered = some .err → exec .readBlock s =
      .next { s with offered := none, err := .ioRd, phase := .fault, oclosed := true })

/-- spec/43_streaming.md R190, R193, R197 and R192: from the start of a fill, the bytes the Producer offers fill
RAW in order; a full block ends the fill though more is to come, a short one ends it at EOS, an empty one ends
the run. `schedule` and `producerQ` are the model's own fields, log 1. -/
def Obligations.FillTakesABlockInOrder : Prop :=
  ∀ (s : State) (bs : List Byte) (later : List InItem) (rest : List Turn), StateInv s →
    s.phase = .read → s.n = 0 → s.eos = false → s.offered = none → s.inEnded = false →
    let filled (t : State) : Prop :=
      t.n = BitVec.ofNat 32 bs.length ∧ t.lastn = t.n ∧ t.incnt = s.incnt + BitVec.ofNat 32 bs.length ∧
      (∀ k, t.raw.read k = if k < bs.length then bs[k]? else s.raw.read k) ∧
      t.producerQ = later ∧ t.schedule = rest ∧ t.outBytes = s.outBytes ∧ t.blkcnt = s.blkcnt ∧
      t.dstate = s.dstate
    (bs.length = s.blksz.toNat → s.producerQ = bs.map .byte ++ later →
      s.schedule = fillTurns bs.length ++ rest →
      ∃ t, Sys2Proof.core.run (fillTurns bs.length).length s = .next t ∧ filled t ∧
        t.phase = .norm ∧ t.eos = false) ∧
    (bs.length < s.blksz.toNat → s.producerQ = bs.map .byte ++ .eos :: later →
      s.schedule = fillTurns (bs.length + 1) ++ rest →
      ∃ t, Sys2Proof.core.run (fillTurns (bs.length + 1)).length s = .next t ∧ filled t ∧
        t.phase = (if bs = [] then .done else .norm) ∧ t.eos = true)

/-! ### The normalizer -/

/-- spec/40_normalizer.md R120: every byte of the block becomes the sample (b - 128) / 128. -/
def Obligations.NormU8NormalizesEveryByte : Prop :=
  ∀ s : State, ∃ norm,
    exec .normU8 s = .next { s with norm := norm, ns := s.n, phase := .decode } ∧
    (∀ k b, k < s.n.toNat → s.raw.read k = some b →
      norm.read k = some (fdiv (toF32 ((b.toNat : Int) - 128)) (toF32 128))) ∧
    ∀ k, s.n.toNat ≤ k → norm.read k = s.norm.read k

/-- spec/40_normalizer.md R121: every two bytes, low byte first, become the sample s / 32768; an odd last byte is
dropped. -/
def Obligations.NormI16NormalizesEveryPair : Prop :=
  ∀ s : State, ∃ norm ns,
    exec .normI16 s = .next { s with norm := norm, ns := ns, phase := .decode } ∧
    ns.toNat = s.n.toNat / 2 ∧
    (∀ k lo hi, k < s.n.toNat / 2 → s.raw.read (2 * k) = some lo → s.raw.read (2 * k + 1) = some hi →
      let v : Int := 256 * hi.toNat + lo.toNat
      norm.read k = some (fdiv (toF32 (if v < 32768 then v else v - 65536)) (toF32 32768))) ∧
    ∀ k, s.n.toNat / 2 ≤ k → norm.read k = s.norm.read k

/-- spec/40_normalizer.md R123: a normalized value is exactly the real quotient, and is no NaN, infinity,
subnormal or -0.0. -/
def Obligations.NormalizedValuesAreExact : Prop :=
  let exact (x : F32) (num : Int) (den : Nat) : Prop :=
    isNaN x = false ∧ isInf x = false ∧ magOf x * den = num.natAbs * unitsPerOne ∧
      (signOf x = true ↔ num < 0) ∧ (num ≠ 0 → 2 ^ 23 ≤ magBits x)
  (∀ b : Byte, exact (normU8Value b.toNat) ((b.toNat : Int) - 128) 128) ∧
  ∀ v : Int, -32768 ≤ v → v ≤ 32767 → exact (normI16Value v) v 32768

/-! ### The decoder call -/

/-- spec/41_decoder.md R142, R146: one DECODE step, with the variant of its row, is one call of the decoder
parameter. For every decoder and every capacity: the checks of the response in order, what a rejected response
leaves, and what an accepted one writes. M, of 32 bits (spec/10_state.md R40), is the frame count wherever they hold
it. -/
def Obligations.DecodeCallsTheDecoderOnce : Prop :=
  ∀ (i : Instr) (mod : Mod), (i, mod) ∈ [(.decodeAm, .am), (.decodeWbfm, .wbfm), (.decodeNbfm, .nbfm)] →
  ∀ (s : State) (ds : DecState) (xs : List F32), s.dstate = some ds → xs.length = s.ns.toNat →
    (∀ k, k < s.ns.toNat → s.norm.read k = xs[k]?) →
    exec i s = .next (decodeBlock Config.decoder Config.maxFrames mod s) ∧
    ∀ (d : Decoder) (cap : Option Nat),
      let r := d.decode mod ds xs (decide (s.cfgNch = 2))
      let t := decodeBlock d cap mod s
      let tooLong := ∃ c, cap = some c ∧ c < r.left.length
      let rightBad := s.cfgNch = 2 ∧ ∀ right, r.right = some right → right.length ≠ r.left.length
      (tooLong → t = { s with err := .decOvf, phase := .fault, oclosed := true }) ∧
      (¬tooLong → rightBad → t = { s with err := .decLen, phase := .fault, oclosed := true }) ∧
      (¬tooLong → ¬rightBad →
        t = { s with
          dstate := some r.next, m := t.m, audL := t.audL, audR := t.audR,
          blkcnt := s.blkcnt + 1, i := 0, olen := 0, opos := 0, phase := .emit } ∧
        (r.left.length < 2 ^ 32 → t.m.toNat = r.left.length) ∧ t.m.toNat ≤ r.left.length ∧
        (∀ k, t.audL.read k = if k < r.left.length then r.left[k]? else s.audL.read k) ∧
        (s.cfgNch ≠ 2 → t.audR = s.audR) ∧
        (s.cfgNch = 2 → ∀ right, r.right = some right →
          ∀ k, t.audR.read k = if k < right.length then right[k]? else s.audR.read k))

/-! ### The quantizer and the emitter -/

/-- spec/42_quantizer.md R164: STAGE of a mono frame. For a sample that is a NaN the word is some word and QNAN is
set (R163). `qword` and `draws` are the model's own fields, log 9 and 10. -/
def Obligations.EmitMonoStagesTheLeftWord : Prop :=
  ∀ (s : State) (x : F32), s.olen = 0 → s.i < s.m → s.audL.read s.i.toNat = some x →
    ∃ t q, exec .emitMono s = .next t ∧
      t = { s with ost := t.ost, olen := 2, opos := 0, qnan := s.qnan || isNaN x, qword := q, draws := t.draws } ∧
      (isNaN x = false → t.draws = s.draws ∧
        q = BitVec.ofInt 16 (if s.cfgSq then sqValue x else linValue .trunc x)) ∧
      ∀ k, t.ost.read k = if k = 0 then some (q.extractLsb' 0 8) else if k = 1 then some (q.extractLsb' 8 8)
        else s.ost.read k

/-- spec/42_quantizer.md R165: STAGE of a stereo frame, left then right, each quantized independently. -/
def Obligations.EmitStereoStagesLeftThenRight : Prop :=
  ∀ (s : State) (x y : F32), s.olen = 0 → s.i < s.m → s.audL.read s.i.toNat = some x → s.audR.read s.i.toNat = some y →
    ∃ t ql qr, exec .emitStereo s = .next t ∧
      t = { s with
        ost := t.ost, olen := 4, opos := 0, qnan := s.qnan || isNaN x || isNaN y, qword := qr, draws := t.draws } ∧
      (isNaN x = false → ql = BitVec.ofInt 16 (if s.cfgSq then sqValue x else linValue .trunc x)) ∧
      (isNaN y = false → qr = BitVec.ofInt 16 (if s.cfgSq then sqValue y else linValue .trunc y)) ∧
      (isNaN x = false → isNaN y = false → t.draws = s.draws) ∧
      ∀ k, t.ost.read k =
        if k = 0 then some (ql.extractLsb' 0 8) else if k = 1 then some (ql.extractLsb' 8 8)
        else if k = 2 then some (qr.extractLsb' 0 8) else if k = 3 then some (qr.extractLsb' 8 8)
        else s.ost.read k

/-- spec/42_quantizer.md R166: WRITE moves one staged byte when the Consumer accepts it, faults IO_WR when it
signals ERR, and waits until then. That a wait is a step that changes nothing and that the answer is used up is
the model's choice, log 5 and 23. -/
def Obligations.EmitWritesOneStagedByte : Prop :=
  ∀ (i : Instr), i = .emitMono ∨ i = .emitStereo → ∀ (s : State) (b : Byte),
    s.opos < s.olen → s.ost.read s.opos.toNat = some b →
    (s.answer = none → exec i s = .next s) ∧
    (s.answer = some .accept → s.opos + 1 ≠ s.olen → exec i s = .next { s with
      answer := none, outBytes := s.outBytes ++ [b], outcnt := s.outcnt + 1, opos := s.opos + 1 }) ∧
    (s.answer = some .accept → s.opos + 1 = s.olen → exec i s = .next { s with
      answer := none, outBytes := s.outBytes ++ [b], outcnt := s.outcnt + 1, i := s.i + 1, olen := 0, opos := 0 }) ∧
    (s.answer = some .err → exec i s =
      .next { s with answer := none, err := .ioWr, phase := .fault, oclosed := true })

/-- spec/43_streaming.md R196: FINISH goes back to READ with N = 0. -/
def Obligations.EmitFinishesTheBlock : Prop :=
  ∀ (i : Instr), i = .emitMono ∨ i = .emitStereo → ∀ s : State, s.olen = 0 → s.i = s.m →
    exec i s = .next { s with n := 0, phase := .read }

/-- spec/42_quantizer.md R160, R161, R163: the scalar quantizer on the sample it names, returned in the model's
field `qword`. That it runs on its own, on the left sample, is the model's choice, log 10. -/
def Obligations.QuantReturnsOneWord : Prop :=
  ∀ (s : State) (x : F32), s.audL.read s.i.toNat = some x →
    (isNaN x = false →
      exec .quantLin s = .next { s with qword := BitVec.ofInt 16 (linValue .trunc x) } ∧
      exec .quantSq s = .next { s with qword := BitVec.ofInt 16 (sqValue x) }) ∧
    (isNaN x = true → ∃ q d,
      exec .quantLin s = .next { s with qnan := true, qword := q, draws := d } ∧
      exec .quantSq s = .next { s with qnan := true, qword := q, draws := d })

/-- spec/42_quantizer.md R162: the four properties of the scalar quantizer for every sample that is no NaN. -/
def Obligations.QuantizerStaysInRangeAndClips : Prop :=
  ∀ x : F32, isNaN x = false →
    (∀ mode, -32767 ≤ linValue mode x ∧ linValue mode x ≤ 32767) ∧
    (-32767 ≤ sqValue x ∧ sqValue x ≤ 32767) ∧
    (∀ mode, isInf (scaleSample x) = false →
      linValue mode x = max (-32767) (min 32767 (convert mode (scaleSample x)))) ∧
    linValue .trunc x = truncF (clip (fmul x (toF32 32767))) ∧
    (magOf 0x38000100 * 32767 / unitsPerOne = 0 ∧ fmul 0x38000100 (toF32 32767) = toF32 1 ∧
      linValue .trunc 0x38000100 = 1) ∧
    (fLt (toF32 1) x = false → fLt x (toF32 (-1)) = false →
      clip (fmul x (toF32 32767)) = fmul x (toF32 32767) ∧ linValue .trunc x = truncF (fmul x (toF32 32767)))

/-- spec/42_quantizer.md R161: squared mode gives 32767 for every positive sample, however small, -32767 for every
negative one, and 0 for both zeros. -/
def Obligations.SquaredModeKeepsOnlyTheSign : Prop :=
  ∀ x : F32, isNaN x = false →
    (fLt (toF32 0) x = true → sqValue x = 32767) ∧
    (fLt x (toF32 0) = true → sqValue x = -32767) ∧
    (x = 0x00000000 ∨ x = 0x80000000 → sqValue x = 0)

/-- spec/00_scope.md R12: a finite product is the binary32 value nearest to the real product, the even one of two
equally near. Distances are in units of 2^-298. -/
def Obligations.FiniteProductsAreNearest : Prop :=
  ∀ a b : F32, isNaN a = false → isNaN b = false → isInf a = false → isInf b = false →
    let y := fmul a b
    isInf y = false →
    isNaN y = false ∧ signOf y = (signOf a ^^ signOf b) ∧
    ∀ z : F32, isNaN z = false → isInf z = false →
      let dist (v : F32) : Nat := ((magOf v * unitsPerOne : Nat) - (magOf a * magOf b : Nat) : Int).natAbs
      dist y ≤ dist z ∧ (dist y = dist z → magBits y ≠ magBits z → magBits y % 2 = 0)

/-- spec/00_scope.md R12: the comparisons `<` and `=` are those of the real values and the two infinities, +0.0 and
-0.0 are equal, and every comparison with a NaN is false. `a > b` is `fLt b a`. -/
def Obligations.ComparisonsFollowTheValues : Prop :=
  (∀ a b : F32, isNaN a = true ∨ isNaN b = true → fLt a b = false ∧ fLt b a = false ∧ fEq a b = false) ∧
  (∀ a b : F32, isNaN a = false → isNaN b = false → isInf a = false → isInf b = false →
    (fLt a b = true ↔ signedUnits a < signedUnits b) ∧ (fEq a b = true ↔ signedUnits a = signedUnits b)) ∧
  (∀ a b : F32, isInf a = true → isNaN b = false → isInf b = false →
    fLt a b = signOf a ∧ fLt b a = !signOf a ∧ fEq a b = false) ∧
  (∀ a b : F32, isInf a = true → isInf b = true →
    fLt a b = (signOf a && !signOf b) ∧ fEq a b = decide (signOf a = signOf b)) ∧
  fEq 0x00000000 0x80000000 = true

/-- spec/00_scope.md R12: the conversion of a real gives the nearest binary32 value, the even one of two equally near,
and an infinity from halfway past the largest finite value on. Distances are in units of 2^-149. -/
def Obligations.ConvertedRealsAreNearest : Prop :=
  ∀ v : ℝ,
    let y := realToF32 v
    isNaN y = false ∧ (signOf y = true ↔ v < 0) ∧
    (isInf y = true ↔ (2 ^ 25 - 1) * 2 ^ 103 ≤ |v|) ∧
    (isInf y = false → ∀ z : F32, isNaN z = false → isInf z = false →
      let dist (x : F32) : ℝ := |(magOf x : ℝ) - |v| * (unitsPerOne : ℝ)|
      dist y ≤ dist z ∧ (dist y = dist z → magBits y ≠ magBits z → magBits y % 2 = 0))

/-- spec/42_quantizer.md R164 to R167, spec/43_streaming.md R196, spec/20_memory.md R81: emitting a block writes
exactly the PCM bytes of its frames, in order, and goes back to READ. `schedule` and `consumerQ` are the model's own
fields, log 1. -/
def Obligations.EmittingABlockWritesItsFramesInOrder : Prop :=
  ∀ (s : State) (later : List OutAnswer) (rest : List Turn), s.phase = .emit → s.cfgNch = 1 ∨ s.cfgNch = 2 →
    s.olen = 0 → s.opos = 0 → s.answer = none → s.i ≤ s.m →
    (∀ k, s.i.toNat ≤ k → k < s.m.toNat → ∀ x ∈ s.frameSamples k, isNaN x = false) →
    let frames := s.m.toNat - s.i.toNat
    let bytes := s.frameBytes.toNat
    s.consumerQ = List.replicate (bytes * frames) .accept ++ later →
    s.schedule = emitTurns bytes frames ++ rest →
    ∃ t, Sys2Proof.core.run (emitTurns bytes frames).length s = .next t ∧
      t.phase = .read ∧ t.n = 0 ∧ t.outBytes = s.outBytes ++ s.blockBytes s.i.toNat frames ∧
      t.outcnt = s.outcnt + BitVec.ofNat 32 (bytes * frames) ∧ t.qnan = s.qnan ∧
      t.consumerQ = later ∧ t.schedule = rest ∧ t.incnt = s.incnt ∧ t.blkcnt = s.blkcnt ∧ t.dstate = s.dstate

/-! ### Steps and agents -/

/-- spec/30_encoding.md R98, R99: a step runs the operation that the Host's next BUS value, or the Core's OSW,
decodes to. `schedule` and `hostQ` are the model's own fields, log 1. -/
def Obligations.StepRunsTheDecodedOperation : Prop :=
  (∀ (s : State) (turns : List Turn) (w : BusWord) (ws : List BusWord),
    s.schedule = .host :: turns → s.hostQ = w :: ws →
    (decodeBus w).wellFormed = true ∧
      step s = exec (decodeBus w) { s with schedule := turns, hostQ := ws }) ∧
  ∀ (s : State) (i : Instr), s.phase.hasCoreStep = true → decodeOsw s.osw = .ok i →
    i.wellFormed = true ∧
    (s.schedule = [] → step s = exec i s) ∧
    ∀ turns, s.schedule = .core :: turns → step s = exec i { s with schedule := turns }

/-- spec/30_encoding.md R99, spec/43_streaming.md R199: in IDLE, DONE and FAULT the Core has no step. That its turn
then changes nothing is the model's choice, log 5. -/
def Obligations.CoreHasNoStepOutsideARun : Prop :=
  ∀ s : State, s.phase = .idle ∨ s.phase = .done ∨ s.phase = .fault →
    (s.schedule = [] → step s = .next s) ∧
    ∀ turns, s.schedule = .core :: turns → step s = .next { s with schedule := turns }

/-- spec/43_streaming.md R201, spec/70_reset_and_hazards.md R276: where the invariant holds, the Core waits only for an
item in READ or for an answer in EMIT; every other step of it changes the state. A wait is a step that changes
nothing, log 5. -/
def Obligations.CoreWaitsOnlyAtTheTwoHandshakes : Prop :=
  ∀ s : State, StateInv s → s.phase.hasCoreStep = true → s.schedule = [] →
    (step s = .next s ↔
      (s.phase = .read ∧ s.n ≠ s.blksz ∧ s.eos = false ∧ s.offered = none) ∨
      (s.phase = .emit ∧ s.opos < s.olen ∧ s.answer = none))

/-- spec/20_memory.md R66, R67: the Producer offers its items in order, one at a time, and nothing after EOS or
ERR. `schedule` and `producerQ` are the model's own fields, log 1 and 3. -/
def Obligations.ProducerOffersInOrder : Prop :=
  ∀ (s : State) (turns : List Turn), s.schedule = .producer :: turns →
    (∀ x rest, s.offered = none → s.inEnded = false → s.producerQ = x :: rest →
      step s = .next { s with schedule := turns, offered := some x, producerQ := rest,
                              inEnded := decide (x = .eos ∨ x = .err) }) ∧
    (s.offered ≠ none ∨ s.inEnded = true ∨ s.producerQ = [] → step s = .next { s with schedule := turns })

/-- spec/20_memory.md R70, R71: the Consumer answers only a byte the Core offers, and may let it wait. Its answer is a turn of its
own, log 4. -/
def Obligations.ConsumerAnswersAnOfferedByte : Prop :=
  ∀ (s : State) (turns : List Turn), s.schedule = .consumer :: turns →
    let offers := s.phase = .emit ∧ s.opos < s.olen
    (∀ a rest, offers → s.answer = none → s.consumerQ = a :: rest →
      step s = .next { s with schedule := turns, answer := some a, consumerQ := rest }) ∧
    (¬offers ∨ s.answer ≠ none ∨ s.consumerQ = [] → step s = .next { s with schedule := turns })

/-- spec/20_memory.md R66, R80: an offered item stays offered until the Core takes it in READ, below BLKSZ, before
EOS, and with every byte of the earlier blocks written; or until a reset drops it. -/
def Obligations.InputIsTakenOnlyDuringAFill : Prop :=
  ∀ (s t : State) (x : InItem), StateInv s → step s = .next t → s.offered = some x → t.offered ≠ some x →
    ResetValues t ∨
    (s.phase = .read ∧ s.n.toNat < s.blksz.toNat ∧ s.eos = false ∧ s.olen = 0 ∧ s.i = s.m ∧ t.offered = none ∧
      (∀ b, x = .byte b → t.n = s.n + 1 ∧ t.raw.read s.n.toNat = some b) ∧
      (x = .eos → t.eos = true) ∧ (x = .err → t.err = .ioRd ∧ t.phase = .fault))

/-- spec/20_memory.md R69, R72: the Consumer's bytes grow only by the byte OST[OPOS], accepted in EMIT; a reset
begins a new session. -/
def Obligations.OutputGrowsByOneAcceptedByte : Prop :=
  ∀ s t : State, step s = .next t → t.outBytes ≠ s.outBytes →
    ResetValues t ∨
    (s.phase = .emit ∧ s.opos < s.olen ∧ s.answer = some .accept ∧
      t.outBytes = s.outBytes ++ [s.ostAt s.opos.toNat] ∧ t.answer = none)

/-- spec/10_state.md R36 to R39: each counter changes by its own event only, but for reset, which clears all four. -/
def Obligations.CountersCountOnlyTheirEvents : Prop :=
  ∀ s t : State, step s = .next t →
    let called := s.phase = .decode ∧ t.phase = .emit
    let taken := s.offered ≠ none ∧ t.offered = none ∧ s.offered ≠ some .eos ∧ s.offered ≠ some .err
    let accepted := s.answer = some .accept ∧ t.answer = none
    let ended := s.phase = .read ∧ (t.phase = .norm ∨ t.phase = .done)
    ResetValues t ∨
    (t.blkcnt = (if called then s.blkcnt + 1 else s.blkcnt) ∧
      t.incnt = (if taken then s.incnt + 1 else s.incnt) ∧
      t.outcnt = (if accepted then s.outcnt + 1 else s.outcnt) ∧
      t.lastn = (if ended then s.n else s.lastn))

/-- spec/10_state.md R34, spec/42_quantizer.md R163: QNAN is set only when a frame with a NaN is staged, and only
reset clears it. -/
def Obligations.QnanIsStickyAndSetByNaNOnly : Prop :=
  ∀ s t : State, RegistersInv s → step s = .next t →
    (s.qnan = true → t.qnan = true ∨ ResetValues t) ∧
    (s.qnan = false → t.qnan = true →
      s.phase = .emit ∧ s.olen = 0 ∧ s.i < s.m ∧ ∃ x ∈ s.frameSamples s.i.toNat, isNaN x = true)

/-- spec/20_memory.md R83, spec/44_control.md R220: no step changes the configuration while the phase is not
IDLE, unless it resets. -/
def Obligations.ConfigurationIsFrozenDuringARun : Prop :=
  ∀ s t : State, step s = .next t → s.phase ≠ .idle → t.phase ≠ .idle →
    t.cfg = s.cfg ∧ t.blksz = s.blksz ∧ t.inRate = s.inRate ∧ t.outRate = s.outRate ∧
      t.bandwidth = s.bandwidth ∧ t.maxDev = s.maxDev

/-- spec/10_state.md R31, spec/43_streaming.md R191 to R199: the transitions of the phase. -/
def Obligations.PhaseFollowsTheLoop : Prop :=
  ∀ s t : State, step s = .next t → t.phase ≠ s.phase →
    ResetValues t ∨
    (s.phase, t.phase) ∈ [(.idle, .check), (.check, .read), (.check, .fault), (.read, .norm), (.read, .done),
      (.read, .fault), (.norm, .decode), (.decode, .emit), (.decode, .fault), (.emit, .read), (.emit, .fault)]

/-- spec/60_exceptions.md R241, R245: a fault writes ERR, the phase and OCLOSED and nothing else, with the codes of
its phase. The item or answer that reports a stream failure is used up: the model's reading, log 23. -/
def Obligations.FaultsArePrecise : Prop :=
  ∀ s t : State, step s = .next t → s.phase ≠ .fault → t.phase = .fault →
    t = { s with err := t.err, phase := .fault, oclosed := true, schedule := s.schedule.tail,
                 offered := t.offered, answer := t.answer } ∧
    ((s.phase = .check ∧ (t.err = .cfgMod ∨ t.err = .cfgEnc ∨ t.err = .cfgNch ∨ t.err = .cfgBlk) ∧
        t.offered = s.offered ∧ t.answer = s.answer) ∨
     (s.phase = .read ∧ t.err = .ioRd ∧ s.offered = some .err ∧ t.offered = none ∧ t.answer = s.answer) ∨
     (s.phase = .emit ∧ t.err = .ioWr ∧ s.answer = some .err ∧ t.answer = none ∧ t.offered = s.offered) ∨
     (s.phase = .decode ∧ (t.err = .decLen ∨ t.err = .decOvf) ∧ t.offered = s.offered ∧ t.answer = s.answer))

/-- spec/43_streaming.md R199, spec/60_exceptions.md R251: DONE and FAULT are left only by reset, and until then
ERR, the counters, the buffers and the output stay. -/
def Obligations.OnlyResetLeavesDoneAndFault : Prop :=
  ∀ s : State, s.phase = .done ∨ s.phase = .fault →
    ∃ t, step s = .next t ∧
      (ResetValues t ∨
        t = { s with schedule := t.schedule, hostQ := t.hostQ, hostReads := t.hostReads,
                     offered := t.offered, inEnded := t.inEnded, producerQ := t.producerQ })

/-- spec/10_state.md R42, spec/41_decoder.md R147: DSTATE is set by CHECK, replaced by a completed DECODE of a block
that is not empty, and discarded by reset; nothing else writes it. -/
def Obligations.DecoderStateChangesOnlyInCheckAndDecode : Prop :=
  ∀ s t : State, StateInv s → step s = .next t → t.dstate ≠ s.dstate →
    ResetValues t ∨
    (s.phase = .check ∧ t.phase = .read ∧ s.dstate = none) ∨
    (s.phase = .decode ∧ t.phase = .emit ∧ s.n ≠ 0 ∧ t.blkcnt = s.blkcnt + 1 ∧
      ∃ mod ds, modOf s.cfgMod = some mod ∧ s.dstate = some ds ∧
        t.dstate = some (Config.decoder.decode mod ds s.samples s.stereo).next)

/-! ### Invariants -/

/-- The state after reset meets the invariant. -/
def Obligations.ResetMeetsTheInvariant : Prop :=
  StateInv State.reset

/-- spec/10_state.md R26, R27, R31, R35, R38, R40, R43, spec/20_memory.md R67, R80, spec/60_exceptions.md R242: every
step keeps the invariant. -/
def Obligations.EveryStepKeepsTheInvariant : Prop :=
  ∀ s t : State, StateInv s → step s = .next t → StateInv t

/-- spec/30_encoding.md R100: where the invariant holds every OSW of a phase with a Core step selects an operation,
no reserved value is met, and no step stops. -/
def Obligations.NoReachableStateStops : Prop :=
  ∀ s : State, StateInv s →
    (∃ t, step s = .next t) ∧
    (s.phase.hasCoreStep = true →
      ∃ i, decodeOsw s.osw = .ok i ∧ i ≠ .quantLin ∧ i ≠ .quantSq) ∧
    (s.phase = .norm ∨ s.phase = .decode ∨ s.phase = .emit →
      s.cfgMod ≠ 3 ∧ s.cfgEnc ≠ 2 ∧ s.cfgEnc ≠ 3 ∧ s.cfgNch ≠ 0 ∧ s.cfgNch ≠ 3)

/-- spec/10_state.md R45: no step depends on a buffer entry beyond the valid count. -/
def Obligations.EntriesBeyondTheCountsAreNeverRead : Prop :=
  ∀ s s' t : State, StateInv s → AgreeOnValid s s' → step s = .next t →
    ∃ t', step s' = .next t' ∧ AgreeOnValid t t'

/-- spec/42_quantizer.md R164, spec/41_decoder.md R146: a mono run neither reads nor writes AUD_R. -/
def Obligations.MonoRunsIgnoreTheRightChannel : Prop :=
  ∀ (i : Instr) (s t : State) (right : Memory F32),
    i ∈ [.emitMono, .decodeAm, .decodeWbfm, .decodeNbfm, .normU8, .normI16, .readBlock, .check] →
    s.stereo = false → exec i s = .next t →
    t.audR = s.audR ∧ exec i { s with audR := right } = .next { t with audR := right }

/-- spec/41_decoder.md R149, spec/42_quantizer.md R163: a run that ends with QNAN = 0 and meets no reset does not
depend on the words drawn for NaNs: its output, counters and state are the same whatever was drawn. -/
def Obligations.RunsWithoutNaNDoNotDependOnDraws : Prop :=
  ∀ (k : Nat) (s t : State) (d : Nat), .reset ∉ s.schedule → (∀ w ∈ s.hostQ, decodeBus w ≠ .srst) →
    Sys2Proof.core.run k s = .next t → t.qnan = false →
    Sys2Proof.core.run k { s with draws := d } = .next { t with draws := d }

/-- spec/44_control.md R225: where the invariant holds, the exit status is success exactly in DONE and failure
exactly in FAULT. -/
def Obligations.ExitStatusIsSuccessExactlyInDone : Prop :=
  ∀ s : State, StateInv s →
    (s.exitStatus = some true ↔ s.phase = .done) ∧ (s.exitStatus = some false ↔ s.phase = .fault)

/-! ### Whole runs -/

/-- spec/43_streaming.md R200: whatever the agents' order and choices, a run without a reset that reaches DONE has
taken the L bytes offered before EOS and has made `ceil(L / B)` decoder calls; the last fill was empty. The plans are
the model's own fields, log 1. -/
def Obligations.RunsReachingDoneCountTheirInput : Prop :=
  ∀ (turns : List Turn) (host : List BusWord) (input : List Byte) (later : List InItem) (answers : List OutAnswer)
    (k : Nat) (t : State), noReset turns host →
    Sys2Proof.core.run k (State.planned turns host input later answers) = .next t → t.phase = .done →
    let size := t.blksz.toNat
    t.incnt = BitVec.ofNat 32 input.length ∧
    t.blkcnt = BitVec.ofNat 32 ((input.length + size - 1) / size) ∧
    t.lastn = 0 ∧ t.eos = true ∧ t.err = .none ∧ (input = [] → t.outBytes = [])

/-- spec/20_memory.md R80, R81, spec/41_decoder.md R147, R149: whatever the agents' order and choices, the output of a
run without a reset that ends in DONE with QNAN = 0 is the same function of the configuration, the decoder and the
input: the input cut into blocks, each normalized, decoded once in order, quantized and serialized. Of a response with more frames
than 32 bits count, M of them are written (log 14). The plans are the model's own fields, log 1. -/
def Obligations.OutputIsTheFunctionOfItsInput : Prop :=
  ∀ (turns : List Turn) (host : List BusWord) (input : List Byte) (later : List InItem) (answers : List OutAnswer)
    (k : Nat) (t : State), noReset turns host →
    Sys2Proof.core.run k (State.planned turns host input later answers) = .next t → t.phase = .done →
    t.qnan = false →
    ∃ mod, modOf t.cfgMod = some mod ∧
      t.outBytes = outputOf Config.decoder mod (t.cfgEnc == 1) t.cfgSq t.stereo
        (Config.decoder.init mod t.initParams) (blocksOf t.blksz.toNat input) ∧
      t.outcnt = BitVec.ofNat 32 t.outBytes.length

/-! ### Encodings -/

/-- spec/30_encoding.md R98, R99: decoding an encoded well-formed operation gives it back, with every offset and
every datum. -/
def Obligations.DecodeOfEncodeIsTheOperation : Prop :=
  ∀ i : Instr, i.wellFormed = true → decode (encode i) = .ok i

/-- spec/30_encoding.md R98, R99: a value decodes only to an operation whose table row it matches, BUS rows in
order, first match first; a REG.WR keeps every bit. -/
def Obligations.DecodedWordsMatchTheirRow : Prop :=
  (∀ e i, decode e = .ok i → i.matchesRow e = true ∧ i.wellFormed = true) ∧
  (∀ w : BusWord,
    (Instr.srst.matchesRow (.bus w) = true ↔ decodeBus w = .srst) ∧
    (Instr.srst.matchesRow (.bus w) = false → Instr.start.matchesRow (.bus w) = true → decodeBus w = .start) ∧
    (Instr.srst.matchesRow (.bus w) = false → Instr.start.matchesRow (.bus w) = false → w.getLsbD 40 = true →
      ∃ off data, decodeBus w = .regWr off data ∧ busWord true off data = w) ∧
    (w.getLsbD 40 = false → decodeBus w = .regRd (w.extractLsb' 32 8)))

/-- Words written out from spec/30_encoding.md R91, R92 and spec/95_test_vectors.md section 3. -/
def Obligations.SpecWordsDecode : Prop :=
  decodeBus 0x10000000064 = .regWr 0x00 0x64 ∧ decodeBus 0x10400000004 = .regWr 0x04 4 ∧
  decodeBus 0x11800000001 = .start ∧ decodeBus 0x11800000003 = .srst ∧ decodeBus 0x01C00000000 = .regRd 0x1C ∧
  decodeOsw 0x1014 = .ok .check ∧ decodeOsw 0x2014 = .ok .readBlock ∧
  decodeOsw 0x3010 = .ok .normU8 ∧ decodeOsw 0x3064 = .ok .normI16 ∧
  decodeOsw 0x4014 = .ok .decodeAm ∧ decodeOsw 0x4025 = .ok .decodeWbfm ∧ decodeOsw 0x4016 = .ok .decodeNbfm ∧
  decodeOsw 0x5054 = .ok .emitMono ∧ decodeOsw 0x5064 = .ok .emitStereo

/-- spec/30_encoding.md R102, R103: the lines of a host program stand for the operations they name. -/
def Obligations.ProgramLinesNameTheirOperations : Prop :=
  (∀ r v, (r = .CTRL → v.getLsbD 0 = false ∧ v.getLsbD 1 = false) →
    (lineBus (.wr r v)).map decodeBus = [.regWr (regOffset r) v]) ∧
  (∀ r, (lineBus (.rd r)).map decodeBus = [.regRd (regOffset r)] ∧ regAt (regOffset r) = some r) ∧
  (∀ m e ch sq, (lineBus (.config m e ch sq)).map decodeBus = [.regWr 0 (configValue m e ch sq)]) ∧
  (lineBus .run).map decodeBus = [.start] ∧ (lineBus .srst).map decodeBus = [.srst] ∧
  ∀ m e ch sq, ch < 4 → sq < 2 →
    let s := { State.reset with cfg := configValue m e ch sq }
    s.cfgMod.toNat = modValue m ∧ s.cfgEnc.toNat = encValue e ∧ s.cfgNch.toNat = ch ∧
      s.cfgSq = decide (sq = 1)
end

