-- ==== Sys2Proof/Laws/Fetch.lean ====
section
/-! SUPPORT. What the Core's OSW selects and what a BUS value decodes to, said once. -/

namespace Sys2Proof.Machine

@[simp] theorem oswPh_osw (s : State) : oswPh s.osw = s.phase.code := by
  simp only [oswPh, State.osw]
  generalize s.phase.code = p
  generalize BitVec.extractLsb' 0 7 s.cfg = c
  revert p c; decide +kernel

@[simp] theorem oswZero_osw (s : State) : oswZero s.osw = 0 := by
  simp only [oswZero, State.osw]
  generalize s.phase.code = p
  generalize BitVec.extractLsb' 0 7 s.cfg = c
  revert p c; decide +kernel

theorem osw_field (p : BitVec 4) (c : Word) (lo : Nat) (h : lo + 2 ≤ 7) :
    (p ++ 0#5 ++ c.extractLsb' 0 7 : BitVec 16).extractLsb' lo 2 = c.extractLsb' lo 2 := by
  ext k hk
  simp only [BitVec.getElem_extractLsb', BitVec.getLsbD_append, BitVec.getLsbD_extractLsb']
  have h1 : lo + k < 7 := by omega
  simp [h1]

@[simp] theorem oswMod_osw (s : State) : oswMod s.osw = s.cfgMod := osw_field _ _ 0 (by omega)

@[simp] theorem oswEnc_osw (s : State) : oswEnc s.osw = s.cfgEnc := osw_field _ _ 2 (by omega)

@[simp] theorem oswNch_osw (s : State) : oswNch s.osw = s.cfgNch := osw_field _ _ 4 (by omega)

@[simp] theorem oswSq_osw (s : State) : oswSq s.osw = s.cfgSq := by
  simp only [oswSq, State.osw, State.cfgSq, BitVec.getLsbD_append, BitVec.getLsbD_extractLsb']
  simp

/-- The row of the OSW in each phase (spec/30_encoding.md R99). -/
theorem decodeOsw_osw (s : State) :
    decodeOsw s.osw = match s.phase with
      | .check => .ok .check
      | .read => .ok .readBlock
      | .norm => normRow s.cfgEnc
      | .decode => decodeRow s.cfgMod
      | .emit => .ok (emitRow s.cfgNch s.cfgSq)
      | .idle | .done | .fault => .error .noStepPhase := by
  unfold decodeOsw
  cases h : s.phase <;> simp [h, Phase.code]

/-- The four rows of a BUS value, first match first (spec/30_encoding.md R98). -/
theorem decodeBus_cases (w : BusWord) :
    decodeBus w = .srst ∨ decodeBus w = .start ∨ (∃ off data, decodeBus w = .regWr off data) ∨
      ∃ off, decodeBus w = .regRd off := by
  unfold decodeBus
  split_ifs <;> simp

end Sys2Proof.Machine
end

