-- ==== Sys2Proof/Laws/Float.lean ====
section
/-! SUPPORT. The conversion of a real agrees with that of a quotient of natural numbers and with that of an integer,
and the comparisons of binary32 exclude one another. -/

namespace Sys2Proof.Machine

section RealConversion

variable {K : Type} [Field K] [LinearOrder K] [IsStrictOrderedRing K] [FloorSemiring K]

/-- Rounding a quotient of natural numbers as a value of `K` is rounding it exactly. -/
theorem nearestNat_div (num den : Nat) (hd : 0 < den) : nearestNat ((num : K) / den) = rneDiv num den := by
  have hdK : (0 : K) < den := Nat.cast_pos.mpr hd
  have hq : Nat.floor ((num : K) / den) = num / den := Nat.floor_div_eq_div num den
  have hr : (num : K) / den - (num / den : Nat) = (num % den : Nat) / den := by
    rw [div_sub' hdK.ne', ← Nat.cast_mul, div_left_inj' hdK.ne', sub_eq_iff_eq_add, ← Nat.cast_add,
      Nat.mod_add_div]
  have hlt : (1 : K) < 2 * ((num % den : Nat) / den) ↔ den < 2 * (num % den) := by
    rw [← mul_div_assoc, one_lt_div hdK, ← Nat.cast_ofNat, ← Nat.cast_mul, Nat.cast_lt]
  have heq : (2 : K) * ((num % den : Nat) / den) = 1 ↔ 2 * (num % den) = den := by
    rw [← mul_div_assoc, div_eq_one_iff_eq hdK.ne', ← Nat.cast_ofNat, ← Nat.cast_mul, Nat.cast_inj]
  simp only [nearestNat, rneDiv, hq, hr, hlt, heq]

/-- The rounding of a quotient of units as a value of `K` is `roundBits`. -/
theorem realBits_div (num den : Nat) (hd : 0 < den) : realBits ((num : K) / den) = roundBits num den := by
  have hq : Nat.floor ((num : K) / den) = num / den := Nat.floor_div_eq_div num den
  have hs (e : Nat) : (num : K) / den / 2 ^ e = (num : K) / (den * 2 ^ e : Nat) := by
    push_cast; rw [div_div]
  simp only [realBits, roundBits, hq, hs, nearestNat_div num _ (Nat.mul_pos hd (Nat.two_pow_pos _))]

/-- On the integers the conversion of a real is the one the operations use. -/
theorem realToF32_intCast (v : Int) : realToF32 (v : K) = toF32 v := by
  have hv : |(v : K)| * (unitsPerOne : K) = ((v.natAbs * unitsPerOne : Nat) : K) / (1 : Nat) := by
    rw [Nat.cast_one, div_one, Nat.cast_mul, Nat.cast_natAbs, Int.cast_abs]
  simp only [realToF32, toF32, roundRatio, hv, realBits_div _ 1 Nat.one_pos, Int.cast_lt_zero]

end RealConversion

/-- Of two values that are no NaN exactly one comparison holds; of a pair with a NaN none. -/
theorem fEq_iff (a b : F32) :
    fEq a b = true ↔ isNaN a = false ∧ isNaN b = false ∧ fLt a b = false ∧ fLt b a = false := by
  simp only [fEq, fLt, Bool.and_eq_true, Bool.not_eq_true', decide_eq_true_eq, Bool.and_eq_false_iff,
    Bool.not_eq_false', decide_eq_false_iff_not]
  constructor
  · rintro ⟨⟨ha, hb⟩, h⟩
    exact ⟨ha, hb, .inr (by omega), .inr (by omega)⟩
  · rintro ⟨ha, hb, h1, h2⟩
    simp only [ha, hb, Bool.false_eq_true, or_self, false_or] at h1 h2
    exact ⟨⟨ha, hb⟩, by omega⟩

end Sys2Proof.Machine
end

