-- ==== Sys2Proof/Laws/Memory.lean ====
section
/-! SUPPORT. Buffers: what a read finds after a write, and that every operation keeps the canonical form. -/

namespace Sys2Proof.Machine

variable {α : Type}

@[simp] theorem read_nil (k : Nat) : Memory.read ([] : Memory α) k = none := rfl

theorem read_cons (j : Nat) (v : α) (rest : Memory α) (k : Nat) :
    Memory.read ((j, v) :: rest) k = if j = k then some v else Memory.read rest k := rfl

/-- A read after a write finds the value at the index written and what stood there elsewhere. -/
theorem read_write (mem : Memory α) (k : Nat) (v : α) (j : Nat) :
    (mem.write k v).read j = if j = k then some v else mem.read j := by
  induction mem with
  | nil => simp [Memory.write, read_cons, eq_comm]
  | cons a rest ih =>
    obtain ⟨i, w⟩ := a
    simp only [Memory.write]
    split_ifs <;> simp only [read_cons, ih] <;> split_ifs <;> first | rfl | omega

@[simp] theorem read_write_same (mem : Memory α) (k : Nat) (v : α) : (mem.write k v).read k = some v := by
  simp [read_write]

theorem read_write_other (mem : Memory α) {k j : Nat} (v : α) (h : j ≠ k) :
    (mem.write k v).read j = mem.read j := by
  simp [read_write, h]

/-- A read after a sequence is written from `base` on. -/
theorem read_writeFrom (vs : List α) (mem : Memory α) (base j : Nat) :
    (mem.writeFrom base vs).read j =
      if base ≤ j ∧ j < base + vs.length then vs[j - base]? else mem.read j := by
  induction vs generalizing mem base with
  | nil => simp [Memory.writeFrom]
  | cons v vs ih =>
    simp only [Memory.writeFrom, ih, read_write, List.length_cons]
    by_cases hj : j = base
    · subst hj; simp
    · by_cases hb : base + 1 ≤ j ∧ j < base + 1 + vs.length
      · have : j - base = (j - (base + 1)) + 1 := by omega
        rw [if_pos hb, if_pos (by omega), this, List.getElem?_cons_succ]
      · rw [if_neg hb, if_neg hj, if_neg (by omega)]

theorem wf_cons_cons (a b : Nat × α) (rest : Memory α) :
    Memory.wf (a :: b :: rest) = (decide (a.1 < b.1) && Memory.wf (b :: rest)) := rfl

/-- The first index of a list, if there is one, lies above `k`. -/
def Memory.Above (k : Nat) : Memory α → Prop
  | [] => True
  | a :: _ => k < a.1

theorem wf_cons_iff (a : Nat × α) (rest : Memory α) :
    Memory.wf (a :: rest) = true ↔ Memory.Above a.1 rest ∧ Memory.wf rest = true := by
  cases rest with
  | nil => simp [Memory.wf, Memory.Above]
  | cons b rest => simp [wf_cons_cons, Memory.Above]

theorem above_write {k j : Nat} (mem : Memory α) (v : α) (hj : k < j) (h : Memory.Above k mem) :
    Memory.Above k (mem.write j v) := by
  cases mem with
  | nil => simpa [Memory.write, Memory.Above] using hj
  | cons a rest =>
    obtain ⟨i, w⟩ := a
    simp only [Memory.write]
    split_ifs <;> simp_all [Memory.Above]

/-- A write keeps the canonical form. -/
theorem write_wf (mem : Memory α) (k : Nat) (v : α) (h : mem.wf = true) : (mem.write k v).wf = true := by
  induction mem with
  | nil => simp [Memory.write, Memory.wf]
  | cons a rest ih =>
    obtain ⟨i, w⟩ := a
    obtain ⟨ha, hr⟩ := (wf_cons_iff _ _).1 h
    simp only [Memory.write]
    split_ifs with h1 h2
    · exact (wf_cons_iff _ _).2 ⟨h1, h⟩
    · exact (wf_cons_iff _ _).2 ⟨h2 ▸ ha, hr⟩
    · exact (wf_cons_iff _ _).2 ⟨above_write rest v (by dsimp only; omega) ha, ih hr⟩

/-- Writing a sequence keeps the canonical form. -/
theorem writeFrom_wf (vs : List α) (mem : Memory α) (base : Nat) (h : mem.wf = true) :
    (mem.writeFrom base vs).wf = true := by
  induction vs generalizing mem base with
  | nil => exact h
  | cons v vs ih => exact ih _ _ (write_wf mem base v h)

theorem filled_mono {mem : Memory α} {a b : Nat} (h : mem.Filled b) (hab : a ≤ b) : mem.Filled a :=
  fun k hk => h k (by omega)

theorem filled_zero (mem : Memory α) : mem.Filled 0 := fun _ h => absurd h (Nat.not_lt_zero _)

/-- Writing the next index extends the filled part by one. -/
theorem filled_write {mem : Memory α} {n : Nat} (v : α) (h : mem.Filled n) : (mem.write n v).Filled (n + 1) := by
  intro k hk
  rw [read_write]
  split_ifs with hkn
  · rfl
  · exact h k (by omega)

/-- A sequence written from 0 fills its length. -/
theorem filled_writeFrom (mem : Memory α) (vs : List α) : (mem.writeFrom 0 vs).Filled vs.length := by
  intro k hk
  rw [read_writeFrom, if_pos (by omega)]
  simp [hk]

theorem within_mono {mem : Memory α} {a b : Nat} (h : mem.Within a) (hab : a ≤ b) : mem.Within b :=
  fun k hk => Nat.lt_of_lt_of_le (h k hk) hab

theorem within_write {mem : Memory α} {b k : Nat} (v : α) (h : mem.Within b) (hk : k < b) :
    (mem.write k v).Within b := by
  intro j hj
  rw [read_write] at hj
  split_ifs at hj with hjk
  · omega
  · exact h j hj

theorem within_writeFrom {mem : Memory α} {b : Nat} (vs : List α) (h : mem.Within b) (hv : vs.length ≤ b) :
    (mem.writeFrom 0 vs).Within b := by
  intro j hj
  rw [read_writeFrom] at hj
  split_ifs at hj with hjk
  · omega
  · exact h j hj

/-- A read of a written entry of RAW is that entry, no free value. -/
theorem rawAt_eq {s : State} {k : Nat} {b : Byte} (h : s.raw.read k = some b) : s.rawAt k = b := by
  simp [State.rawAt, h]

theorem normAt_eq {s : State} {k : Nat} {x : F32} (h : s.norm.read k = some x) : s.normAt k = x := by
  simp [State.normAt, h]

theorem audLAt_eq {s : State} {k : Nat} {x : F32} (h : s.audL.read k = some x) : s.audLAt k = x := by
  simp [State.audLAt, h]

theorem audRAt_eq {s : State} {k : Nat} {x : F32} (h : s.audR.read k = some x) : s.audRAt k = x := by
  simp [State.audRAt, h]

theorem ostAt_eq {s : State} {k : Nat} {b : Byte} (h : s.ost.read k = some b) : s.ostAt k = b := by
  simp [State.ostAt, h]

/-- Every buffer of the state after reset has the canonical form. -/
theorem reset_buffers_wf :
    State.reset.raw.wf = true ∧ State.reset.norm.wf = true ∧ State.reset.audL.wf = true ∧
      State.reset.audR.wf = true ∧ State.reset.ost.wf = true := ⟨rfl, rfl, rfl, rfl, rfl⟩

end Sys2Proof.Machine
end

