-- ==== Sys2Proof/Laws/State.lean ====
section
/-! SUPPORT. One lemma per field per named update of State, each true by definition, so that no proof unfolds a
record update. -/

namespace Sys2Proof.Machine

section
variable (code : ErrCode) (s : State)

@[simp] theorem raiseFault_cfg : (raiseFault code s).cfg = s.cfg := rfl
@[simp] theorem raiseFault_blksz : (raiseFault code s).blksz = s.blksz := rfl
@[simp] theorem raiseFault_inRate : (raiseFault code s).inRate = s.inRate := rfl
@[simp] theorem raiseFault_outRate : (raiseFault code s).outRate = s.outRate := rfl
@[simp] theorem raiseFault_bandwidth : (raiseFault code s).bandwidth = s.bandwidth := rfl
@[simp] theorem raiseFault_maxDev : (raiseFault code s).maxDev = s.maxDev := rfl
@[simp] theorem raiseFault_phase : (raiseFault code s).phase = .fault := rfl
@[simp] theorem raiseFault_eos : (raiseFault code s).eos = s.eos := rfl
@[simp] theorem raiseFault_qnan : (raiseFault code s).qnan = s.qnan := rfl
@[simp] theorem raiseFault_err : (raiseFault code s).err = code := rfl
@[simp] theorem raiseFault_blkcnt : (raiseFault code s).blkcnt = s.blkcnt := rfl
@[simp] theorem raiseFault_incnt : (raiseFault code s).incnt = s.incnt := rfl
@[simp] theorem raiseFault_outcnt : (raiseFault code s).outcnt = s.outcnt := rfl
@[simp] theorem raiseFault_lastn : (raiseFault code s).lastn = s.lastn := rfl
@[simp] theorem raiseFault_n : (raiseFault code s).n = s.n := rfl
@[simp] theorem raiseFault_ns : (raiseFault code s).ns = s.ns := rfl
@[simp] theorem raiseFault_m : (raiseFault code s).m = s.m := rfl
@[simp] theorem raiseFault_i : (raiseFault code s).i = s.i := rfl
@[simp] theorem raiseFault_ost : (raiseFault code s).ost = s.ost := rfl
@[simp] theorem raiseFault_olen : (raiseFault code s).olen = s.olen := rfl
@[simp] theorem raiseFault_opos : (raiseFault code s).opos = s.opos := rfl
@[simp] theorem raiseFault_oclosed : (raiseFault code s).oclosed = true := rfl
@[simp] theorem raiseFault_raw : (raiseFault code s).raw = s.raw := rfl
@[simp] theorem raiseFault_norm : (raiseFault code s).norm = s.norm := rfl
@[simp] theorem raiseFault_audL : (raiseFault code s).audL = s.audL := rfl
@[simp] theorem raiseFault_audR : (raiseFault code s).audR = s.audR := rfl
@[simp] theorem raiseFault_dstate : (raiseFault code s).dstate = s.dstate := rfl
@[simp] theorem raiseFault_offered : (raiseFault code s).offered = s.offered := rfl
@[simp] theorem raiseFault_inEnded : (raiseFault code s).inEnded = s.inEnded := rfl
@[simp] theorem raiseFault_answer : (raiseFault code s).answer = s.answer := rfl
@[simp] theorem raiseFault_outBytes : (raiseFault code s).outBytes = s.outBytes := rfl
@[simp] theorem raiseFault_pastOutputs : (raiseFault code s).pastOutputs = s.pastOutputs := rfl
@[simp] theorem raiseFault_hostReads : (raiseFault code s).hostReads = s.hostReads := rfl
@[simp] theorem raiseFault_schedule : (raiseFault code s).schedule = s.schedule := rfl
@[simp] theorem raiseFault_hostQ : (raiseFault code s).hostQ = s.hostQ := rfl
@[simp] theorem raiseFault_producerQ : (raiseFault code s).producerQ = s.producerQ := rfl
@[simp] theorem raiseFault_consumerQ : (raiseFault code s).consumerQ = s.consumerQ := rfl
@[simp] theorem raiseFault_draws : (raiseFault code s).draws = s.draws := rfl
@[simp] theorem raiseFault_qword : (raiseFault code s).qword = s.qword := rfl

end

section
variable (s : State)

@[simp] theorem finishBlock_cfg : (finishBlock s).cfg = s.cfg := rfl
@[simp] theorem finishBlock_blksz : (finishBlock s).blksz = s.blksz := rfl
@[simp] theorem finishBlock_inRate : (finishBlock s).inRate = s.inRate := rfl
@[simp] theorem finishBlock_outRate : (finishBlock s).outRate = s.outRate := rfl
@[simp] theorem finishBlock_bandwidth : (finishBlock s).bandwidth = s.bandwidth := rfl
@[simp] theorem finishBlock_maxDev : (finishBlock s).maxDev = s.maxDev := rfl
@[simp] theorem finishBlock_phase : (finishBlock s).phase = .read := rfl
@[simp] theorem finishBlock_eos : (finishBlock s).eos = s.eos := rfl
@[simp] theorem finishBlock_qnan : (finishBlock s).qnan = s.qnan := rfl
@[simp] theorem finishBlock_err : (finishBlock s).err = s.err := rfl
@[simp] theorem finishBlock_blkcnt : (finishBlock s).blkcnt = s.blkcnt := rfl
@[simp] theorem finishBlock_incnt : (finishBlock s).incnt = s.incnt := rfl
@[simp] theorem finishBlock_outcnt : (finishBlock s).outcnt = s.outcnt := rfl
@[simp] theorem finishBlock_lastn : (finishBlock s).lastn = s.lastn := rfl
@[simp] theorem finishBlock_n : (finishBlock s).n = 0 := rfl
@[simp] theorem finishBlock_ns : (finishBlock s).ns = s.ns := rfl
@[simp] theorem finishBlock_m : (finishBlock s).m = s.m := rfl
@[simp] theorem finishBlock_i : (finishBlock s).i = s.i := rfl
@[simp] theorem finishBlock_ost : (finishBlock s).ost = s.ost := rfl
@[simp] theorem finishBlock_olen : (finishBlock s).olen = s.olen := rfl
@[simp] theorem finishBlock_opos : (finishBlock s).opos = s.opos := rfl
@[simp] theorem finishBlock_oclosed : (finishBlock s).oclosed = s.oclosed := rfl
@[simp] theorem finishBlock_raw : (finishBlock s).raw = s.raw := rfl
@[simp] theorem finishBlock_norm : (finishBlock s).norm = s.norm := rfl
@[simp] theorem finishBlock_audL : (finishBlock s).audL = s.audL := rfl
@[simp] theorem finishBlock_audR : (finishBlock s).audR = s.audR := rfl
@[simp] theorem finishBlock_dstate : (finishBlock s).dstate = s.dstate := rfl
@[simp] theorem finishBlock_offered : (finishBlock s).offered = s.offered := rfl
@[simp] theorem finishBlock_inEnded : (finishBlock s).inEnded = s.inEnded := rfl
@[simp] theorem finishBlock_answer : (finishBlock s).answer = s.answer := rfl
@[simp] theorem finishBlock_outBytes : (finishBlock s).outBytes = s.outBytes := rfl
@[simp] theorem finishBlock_pastOutputs : (finishBlock s).pastOutputs = s.pastOutputs := rfl
@[simp] theorem finishBlock_hostReads : (finishBlock s).hostReads = s.hostReads := rfl
@[simp] theorem finishBlock_schedule : (finishBlock s).schedule = s.schedule := rfl
@[simp] theorem finishBlock_hostQ : (finishBlock s).hostQ = s.hostQ := rfl
@[simp] theorem finishBlock_producerQ : (finishBlock s).producerQ = s.producerQ := rfl
@[simp] theorem finishBlock_consumerQ : (finishBlock s).consumerQ = s.consumerQ := rfl
@[simp] theorem finishBlock_draws : (finishBlock s).draws = s.draws := rfl
@[simp] theorem finishBlock_qword : (finishBlock s).qword = s.qword := rfl

end

section
variable (d : Decoder) (mod : Mod) (s : State)

@[simp] theorem constructDecoder_cfg : (constructDecoder d mod s).cfg = s.cfg := rfl
@[simp] theorem constructDecoder_blksz : (constructDecoder d mod s).blksz = s.blksz := rfl
@[simp] theorem constructDecoder_inRate : (constructDecoder d mod s).inRate = s.inRate := rfl
@[simp] theorem constructDecoder_outRate : (constructDecoder d mod s).outRate = s.outRate := rfl
@[simp] theorem constructDecoder_bandwidth : (constructDecoder d mod s).bandwidth = s.bandwidth := rfl
@[simp] theorem constructDecoder_maxDev : (constructDecoder d mod s).maxDev = s.maxDev := rfl
@[simp] theorem constructDecoder_phase : (constructDecoder d mod s).phase = s.phase := rfl
@[simp] theorem constructDecoder_eos : (constructDecoder d mod s).eos = s.eos := rfl
@[simp] theorem constructDecoder_qnan : (constructDecoder d mod s).qnan = s.qnan := rfl
@[simp] theorem constructDecoder_err : (constructDecoder d mod s).err = s.err := rfl
@[simp] theorem constructDecoder_blkcnt : (constructDecoder d mod s).blkcnt = s.blkcnt := rfl
@[simp] theorem constructDecoder_incnt : (constructDecoder d mod s).incnt = s.incnt := rfl
@[simp] theorem constructDecoder_outcnt : (constructDecoder d mod s).outcnt = s.outcnt := rfl
@[simp] theorem constructDecoder_lastn : (constructDecoder d mod s).lastn = s.lastn := rfl
@[simp] theorem constructDecoder_n : (constructDecoder d mod s).n = s.n := rfl
@[simp] theorem constructDecoder_ns : (constructDecoder d mod s).ns = s.ns := rfl
@[simp] theorem constructDecoder_m : (constructDecoder d mod s).m = s.m := rfl
@[simp] theorem constructDecoder_i : (constructDecoder d mod s).i = s.i := rfl
@[simp] theorem constructDecoder_ost : (constructDecoder d mod s).ost = s.ost := rfl
@[simp] theorem constructDecoder_olen : (constructDecoder d mod s).olen = s.olen := rfl
@[simp] theorem constructDecoder_opos : (constructDecoder d mod s).opos = s.opos := rfl
@[simp] theorem constructDecoder_oclosed : (constructDecoder d mod s).oclosed = s.oclosed := rfl
@[simp] theorem constructDecoder_raw : (constructDecoder d mod s).raw = s.raw := rfl
@[simp] theorem constructDecoder_norm : (constructDecoder d mod s).norm = s.norm := rfl
@[simp] theorem constructDecoder_audL : (constructDecoder d mod s).audL = s.audL := rfl
@[simp] theorem constructDecoder_audR : (constructDecoder d mod s).audR = s.audR := rfl
@[simp] theorem constructDecoder_dstate : (constructDecoder d mod s).dstate = some (d.init mod s.initParams) := rfl
@[simp] theorem constructDecoder_offered : (constructDecoder d mod s).offered = s.offered := rfl
@[simp] theorem constructDecoder_inEnded : (constructDecoder d mod s).inEnded = s.inEnded := rfl
@[simp] theorem constructDecoder_answer : (constructDecoder d mod s).answer = s.answer := rfl
@[simp] theorem constructDecoder_outBytes : (constructDecoder d mod s).outBytes = s.outBytes := rfl
@[simp] theorem constructDecoder_pastOutputs : (constructDecoder d mod s).pastOutputs = s.pastOutputs := rfl
@[simp] theorem constructDecoder_hostReads : (constructDecoder d mod s).hostReads = s.hostReads := rfl
@[simp] theorem constructDecoder_schedule : (constructDecoder d mod s).schedule = s.schedule := rfl
@[simp] theorem constructDecoder_hostQ : (constructDecoder d mod s).hostQ = s.hostQ := rfl
@[simp] theorem constructDecoder_producerQ : (constructDecoder d mod s).producerQ = s.producerQ := rfl
@[simp] theorem constructDecoder_consumerQ : (constructDecoder d mod s).consumerQ = s.consumerQ := rfl
@[simp] theorem constructDecoder_draws : (constructDecoder d mod s).draws = s.draws := rfl
@[simp] theorem constructDecoder_qword : (constructDecoder d mod s).qword = s.qword := rfl

end

section
variable (c : Word) (v : Nat → F32) (s : State)

@[simp] theorem storeNormalized_cfg : (storeNormalized c v s).cfg = s.cfg := rfl
@[simp] theorem storeNormalized_blksz : (storeNormalized c v s).blksz = s.blksz := rfl
@[simp] theorem storeNormalized_inRate : (storeNormalized c v s).inRate = s.inRate := rfl
@[simp] theorem storeNormalized_outRate : (storeNormalized c v s).outRate = s.outRate := rfl
@[simp] theorem storeNormalized_bandwidth : (storeNormalized c v s).bandwidth = s.bandwidth := rfl
@[simp] theorem storeNormalized_maxDev : (storeNormalized c v s).maxDev = s.maxDev := rfl
@[simp] theorem storeNormalized_phase : (storeNormalized c v s).phase = .decode := rfl
@[simp] theorem storeNormalized_eos : (storeNormalized c v s).eos = s.eos := rfl
@[simp] theorem storeNormalized_qnan : (storeNormalized c v s).qnan = s.qnan := rfl
@[simp] theorem storeNormalized_err : (storeNormalized c v s).err = s.err := rfl
@[simp] theorem storeNormalized_blkcnt : (storeNormalized c v s).blkcnt = s.blkcnt := rfl
@[simp] theorem storeNormalized_incnt : (storeNormalized c v s).incnt = s.incnt := rfl
@[simp] theorem storeNormalized_outcnt : (storeNormalized c v s).outcnt = s.outcnt := rfl
@[simp] theorem storeNormalized_lastn : (storeNormalized c v s).lastn = s.lastn := rfl
@[simp] theorem storeNormalized_n : (storeNormalized c v s).n = s.n := rfl
@[simp] theorem storeNormalized_ns : (storeNormalized c v s).ns = c := rfl
@[simp] theorem storeNormalized_m : (storeNormalized c v s).m = s.m := rfl
@[simp] theorem storeNormalized_i : (storeNormalized c v s).i = s.i := rfl
@[simp] theorem storeNormalized_ost : (storeNormalized c v s).ost = s.ost := rfl
@[simp] theorem storeNormalized_olen : (storeNormalized c v s).olen = s.olen := rfl
@[simp] theorem storeNormalized_opos : (storeNormalized c v s).opos = s.opos := rfl
@[simp] theorem storeNormalized_oclosed : (storeNormalized c v s).oclosed = s.oclosed := rfl
@[simp] theorem storeNormalized_raw : (storeNormalized c v s).raw = s.raw := rfl
@[simp] theorem storeNormalized_norm : (storeNormalized c v s).norm = s.norm.writeFrom 0 ((List.range c.toNat).map v) := rfl
@[simp] theorem storeNormalized_audL : (storeNormalized c v s).audL = s.audL := rfl
@[simp] theorem storeNormalized_audR : (storeNormalized c v s).audR = s.audR := rfl
@[simp] theorem storeNormalized_dstate : (storeNormalized c v s).dstate = s.dstate := rfl
@[simp] theorem storeNormalized_offered : (storeNormalized c v s).offered = s.offered := rfl
@[simp] theorem storeNormalized_inEnded : (storeNormalized c v s).inEnded = s.inEnded := rfl
@[simp] theorem storeNormalized_answer : (storeNormalized c v s).answer = s.answer := rfl
@[simp] theorem storeNormalized_outBytes : (storeNormalized c v s).outBytes = s.outBytes := rfl
@[simp] theorem storeNormalized_pastOutputs : (storeNormalized c v s).pastOutputs = s.pastOutputs := rfl
@[simp] theorem storeNormalized_hostReads : (storeNormalized c v s).hostReads = s.hostReads := rfl
@[simp] theorem storeNormalized_schedule : (storeNormalized c v s).schedule = s.schedule := rfl
@[simp] theorem storeNormalized_hostQ : (storeNormalized c v s).hostQ = s.hostQ := rfl
@[simp] theorem storeNormalized_producerQ : (storeNormalized c v s).producerQ = s.producerQ := rfl
@[simp] theorem storeNormalized_consumerQ : (storeNormalized c v s).consumerQ = s.consumerQ := rfl
@[simp] theorem storeNormalized_draws : (storeNormalized c v s).draws = s.draws := rfl
@[simp] theorem storeNormalized_qword : (storeNormalized c v s).qword = s.qword := rfl

end

section
variable (r : Response) (s : State)

@[simp] theorem acceptResponse_cfg : (acceptResponse r s).cfg = s.cfg := rfl
@[simp] theorem acceptResponse_blksz : (acceptResponse r s).blksz = s.blksz := rfl
@[simp] theorem acceptResponse_inRate : (acceptResponse r s).inRate = s.inRate := rfl
@[simp] theorem acceptResponse_outRate : (acceptResponse r s).outRate = s.outRate := rfl
@[simp] theorem acceptResponse_bandwidth : (acceptResponse r s).bandwidth = s.bandwidth := rfl
@[simp] theorem acceptResponse_maxDev : (acceptResponse r s).maxDev = s.maxDev := rfl
@[simp] theorem acceptResponse_phase : (acceptResponse r s).phase = .emit := rfl
@[simp] theorem acceptResponse_eos : (acceptResponse r s).eos = s.eos := rfl
@[simp] theorem acceptResponse_qnan : (acceptResponse r s).qnan = s.qnan := rfl
@[simp] theorem acceptResponse_err : (acceptResponse r s).err = s.err := rfl
@[simp] theorem acceptResponse_blkcnt : (acceptResponse r s).blkcnt = s.blkcnt + 1 := rfl
@[simp] theorem acceptResponse_incnt : (acceptResponse r s).incnt = s.incnt := rfl
@[simp] theorem acceptResponse_outcnt : (acceptResponse r s).outcnt = s.outcnt := rfl
@[simp] theorem acceptResponse_lastn : (acceptResponse r s).lastn = s.lastn := rfl
@[simp] theorem acceptResponse_n : (acceptResponse r s).n = s.n := rfl
@[simp] theorem acceptResponse_ns : (acceptResponse r s).ns = s.ns := rfl
@[simp] theorem acceptResponse_m : (acceptResponse r s).m = frameCount r.left.length := rfl
@[simp] theorem acceptResponse_i : (acceptResponse r s).i = 0 := rfl
@[simp] theorem acceptResponse_ost : (acceptResponse r s).ost = s.ost := rfl
@[simp] theorem acceptResponse_olen : (acceptResponse r s).olen = 0 := rfl
@[simp] theorem acceptResponse_opos : (acceptResponse r s).opos = 0 := rfl
@[simp] theorem acceptResponse_oclosed : (acceptResponse r s).oclosed = s.oclosed := rfl
@[simp] theorem acceptResponse_raw : (acceptResponse r s).raw = s.raw := rfl
@[simp] theorem acceptResponse_norm : (acceptResponse r s).norm = s.norm := rfl
@[simp] theorem acceptResponse_audL : (acceptResponse r s).audL = s.audL.writeFrom 0 r.left := rfl
@[simp] theorem acceptResponse_audR : (acceptResponse r s).audR = if s.stereo then s.audR.writeFrom 0 (r.right.getD []) else s.audR := rfl
@[simp] theorem acceptResponse_dstate : (acceptResponse r s).dstate = some r.next := rfl
@[simp] theorem acceptResponse_offered : (acceptResponse r s).offered = s.offered := rfl
@[simp] theorem acceptResponse_inEnded : (acceptResponse r s).inEnded = s.inEnded := rfl
@[simp] theorem acceptResponse_answer : (acceptResponse r s).answer = s.answer := rfl
@[simp] theorem acceptResponse_outBytes : (acceptResponse r s).outBytes = s.outBytes := rfl
@[simp] theorem acceptResponse_pastOutputs : (acceptResponse r s).pastOutputs = s.pastOutputs := rfl
@[simp] theorem acceptResponse_hostReads : (acceptResponse r s).hostReads = s.hostReads := rfl
@[simp] theorem acceptResponse_schedule : (acceptResponse r s).schedule = s.schedule := rfl
@[simp] theorem acceptResponse_hostQ : (acceptResponse r s).hostQ = s.hostQ := rfl
@[simp] theorem acceptResponse_producerQ : (acceptResponse r s).producerQ = s.producerQ := rfl
@[simp] theorem acceptResponse_consumerQ : (acceptResponse r s).consumerQ = s.consumerQ := rfl
@[simp] theorem acceptResponse_draws : (acceptResponse r s).draws = s.draws := rfl
@[simp] theorem acceptResponse_qword : (acceptResponse r s).qword = s.qword := rfl

end

section
variable (bs : List Byte) (s : State)

@[simp] theorem stageBytes_cfg : (stageBytes bs s).cfg = s.cfg := rfl
@[simp] theorem stageBytes_blksz : (stageBytes bs s).blksz = s.blksz := rfl
@[simp] theorem stageBytes_inRate : (stageBytes bs s).inRate = s.inRate := rfl
@[simp] theorem stageBytes_outRate : (stageBytes bs s).outRate = s.outRate := rfl
@[simp] theorem stageBytes_bandwidth : (stageBytes bs s).bandwidth = s.bandwidth := rfl
@[simp] theorem stageBytes_maxDev : (stageBytes bs s).maxDev = s.maxDev := rfl
@[simp] theorem stageBytes_phase : (stageBytes bs s).phase = s.phase := rfl
@[simp] theorem stageBytes_eos : (stageBytes bs s).eos = s.eos := rfl
@[simp] theorem stageBytes_qnan : (stageBytes bs s).qnan = s.qnan := rfl
@[simp] theorem stageBytes_err : (stageBytes bs s).err = s.err := rfl
@[simp] theorem stageBytes_blkcnt : (stageBytes bs s).blkcnt = s.blkcnt := rfl
@[simp] theorem stageBytes_incnt : (stageBytes bs s).incnt = s.incnt := rfl
@[simp] theorem stageBytes_outcnt : (stageBytes bs s).outcnt = s.outcnt := rfl
@[simp] theorem stageBytes_lastn : (stageBytes bs s).lastn = s.lastn := rfl
@[simp] theorem stageBytes_n : (stageBytes bs s).n = s.n := rfl
@[simp] theorem stageBytes_ns : (stageBytes bs s).ns = s.ns := rfl
@[simp] theorem stageBytes_m : (stageBytes bs s).m = s.m := rfl
@[simp] theorem stageBytes_i : (stageBytes bs s).i = s.i := rfl
@[simp] theorem stageBytes_ost : (stageBytes bs s).ost = s.ost.writeFrom 0 bs := rfl
@[simp] theorem stageBytes_olen : (stageBytes bs s).olen = BitVec.ofNat 3 bs.length := rfl
@[simp] theorem stageBytes_opos : (stageBytes bs s).opos = 0 := rfl
@[simp] theorem stageBytes_oclosed : (stageBytes bs s).oclosed = s.oclosed := rfl
@[simp] theorem stageBytes_raw : (stageBytes bs s).raw = s.raw := rfl
@[simp] theorem stageBytes_norm : (stageBytes bs s).norm = s.norm := rfl
@[simp] theorem stageBytes_audL : (stageBytes bs s).audL = s.audL := rfl
@[simp] theorem stageBytes_audR : (stageBytes bs s).audR = s.audR := rfl
@[simp] theorem stageBytes_dstate : (stageBytes bs s).dstate = s.dstate := rfl
@[simp] theorem stageBytes_offered : (stageBytes bs s).offered = s.offered := rfl
@[simp] theorem stageBytes_inEnded : (stageBytes bs s).inEnded = s.inEnded := rfl
@[simp] theorem stageBytes_answer : (stageBytes bs s).answer = s.answer := rfl
@[simp] theorem stageBytes_outBytes : (stageBytes bs s).outBytes = s.outBytes := rfl
@[simp] theorem stageBytes_pastOutputs : (stageBytes bs s).pastOutputs = s.pastOutputs := rfl
@[simp] theorem stageBytes_hostReads : (stageBytes bs s).hostReads = s.hostReads := rfl
@[simp] theorem stageBytes_schedule : (stageBytes bs s).schedule = s.schedule := rfl
@[simp] theorem stageBytes_hostQ : (stageBytes bs s).hostQ = s.hostQ := rfl
@[simp] theorem stageBytes_producerQ : (stageBytes bs s).producerQ = s.producerQ := rfl
@[simp] theorem stageBytes_consumerQ : (stageBytes bs s).consumerQ = s.consumerQ := rfl
@[simp] theorem stageBytes_draws : (stageBytes bs s).draws = s.draws := rfl
@[simp] theorem stageBytes_qword : (stageBytes bs s).qword = s.qword := rfl

end

section
variable (s : State)

@[simp] theorem resetCore_cfg : (resetCore s).cfg = 0x00000014 := rfl
@[simp] theorem resetCore_blksz : (resetCore s).blksz = 0x00010000 := rfl
@[simp] theorem resetCore_inRate : (resetCore s).inRate = 0x000FA000 := rfl
@[simp] theorem resetCore_outRate : (resetCore s).outRate = 0x0000BB80 := rfl
@[simp] theorem resetCore_bandwidth : (resetCore s).bandwidth = 0x00002710 := rfl
@[simp] theorem resetCore_maxDev : (resetCore s).maxDev = 0x00002710 := rfl
@[simp] theorem resetCore_phase : (resetCore s).phase = .idle := rfl
@[simp] theorem resetCore_eos : (resetCore s).eos = false := rfl
@[simp] theorem resetCore_qnan : (resetCore s).qnan = false := rfl
@[simp] theorem resetCore_err : (resetCore s).err = .none := rfl
@[simp] theorem resetCore_blkcnt : (resetCore s).blkcnt = 0 := rfl
@[simp] theorem resetCore_incnt : (resetCore s).incnt = 0 := rfl
@[simp] theorem resetCore_outcnt : (resetCore s).outcnt = 0 := rfl
@[simp] theorem resetCore_lastn : (resetCore s).lastn = 0 := rfl
@[simp] theorem resetCore_n : (resetCore s).n = 0 := rfl
@[simp] theorem resetCore_ns : (resetCore s).ns = 0 := rfl
@[simp] theorem resetCore_m : (resetCore s).m = 0 := rfl
@[simp] theorem resetCore_i : (resetCore s).i = 0 := rfl
@[simp] theorem resetCore_ost : (resetCore s).ost = [] := rfl
@[simp] theorem resetCore_olen : (resetCore s).olen = 0 := rfl
@[simp] theorem resetCore_opos : (resetCore s).opos = 0 := rfl
@[simp] theorem resetCore_oclosed : (resetCore s).oclosed = false := rfl
@[simp] theorem resetCore_raw : (resetCore s).raw = [] := rfl
@[simp] theorem resetCore_norm : (resetCore s).norm = [] := rfl
@[simp] theorem resetCore_audL : (resetCore s).audL = [] := rfl
@[simp] theorem resetCore_audR : (resetCore s).audR = [] := rfl
@[simp] theorem resetCore_dstate : (resetCore s).dstate = none := rfl
@[simp] theorem resetCore_offered : (resetCore s).offered = none := rfl
@[simp] theorem resetCore_inEnded : (resetCore s).inEnded = false := rfl
@[simp] theorem resetCore_answer : (resetCore s).answer = none := rfl
@[simp] theorem resetCore_outBytes : (resetCore s).outBytes = [] := rfl
@[simp] theorem resetCore_pastOutputs : (resetCore s).pastOutputs = s.pastOutputs ++ [s.outBytes] := rfl
@[simp] theorem resetCore_hostReads : (resetCore s).hostReads = s.hostReads := rfl
@[simp] theorem resetCore_schedule : (resetCore s).schedule = s.schedule := rfl
@[simp] theorem resetCore_hostQ : (resetCore s).hostQ = s.hostQ := rfl
@[simp] theorem resetCore_producerQ : (resetCore s).producerQ = s.producerQ := rfl
@[simp] theorem resetCore_consumerQ : (resetCore s).consumerQ = s.consumerQ := rfl
@[simp] theorem resetCore_draws : (resetCore s).draws = s.draws := rfl
@[simp] theorem resetCore_qword : (resetCore s).qword = 0 := rfl

end

end Sys2Proof.Machine
end

