-- ==== Sys2Proof/Laws/Ops.lean ====
section
/-! SUPPORT. One lemma per shared operation: everything it can do. Proofs cite these and do not unfold the
operation. -/

namespace Sys2Proof.Machine

/-- `blockLegal` is the test of CHECK, whatever MAX_BLOCK is. -/
theorem blockLegal_iff (b : Nat) : blockLegal b = true ↔ 2 ≤ b ∧ b ≤ Config.maxBlock := by
  have hd : Config.defaultBlock ≤ Config.maxBlock := Nat.le_add_right _ _
  simp only [blockLegal, Bool.and_eq_true, Bool.or_eq_true, decide_eq_true_eq]
  exact ⟨fun ⟨h, h'⟩ => ⟨h, by omega⟩, fun ⟨h, h'⟩ => ⟨h, by omega⟩⟩

theorem modOf_eq_none_iff (c : BitVec 2) : modOf c = none ↔ c = 3 := by
  revert c; decide

theorem modOf_eq_some_iff (c : BitVec 2) (mod : Mod) :
    modOf c = some mod ↔ (c = 0 ∧ mod = .am) ∨ (c = 1 ∧ mod = .wbfm) ∨ (c = 2 ∧ mod = .nbfm) := by
  revert c; cases mod <;> decide

/-- CHECK raises the first failing test's fault, or starts the run. -/
theorem checkConfig_cases (d : Decoder) (s : State) :
    (s.cfgMod = 3 ∧ checkConfig d s = raiseFault .cfgMod s) ∨
    (s.cfgMod ≠ 3 ∧ (s.cfgEnc = 2 ∨ s.cfgEnc = 3) ∧ checkConfig d s = raiseFault .cfgEnc s) ∨
    (s.cfgMod ≠ 3 ∧ (s.cfgEnc = 0 ∨ s.cfgEnc = 1) ∧ (s.cfgNch = 0 ∨ s.cfgNch = 3) ∧
      checkConfig d s = raiseFault .cfgNch s) ∨
    (s.cfgMod ≠ 3 ∧ (s.cfgEnc = 0 ∨ s.cfgEnc = 1) ∧ (s.cfgNch = 1 ∨ s.cfgNch = 2) ∧
      ¬(2 ≤ s.blksz.toNat ∧ s.blksz.toNat ≤ Config.maxBlock) ∧ checkConfig d s = raiseFault .cfgBlk s) ∨
    ∃ mod, modOf s.cfgMod = some mod ∧ s.configLegal ∧
      checkConfig d s = { constructDecoder d mod s with n := 0, phase := .read } := by
  have enc : s.cfgEnc = 0 ∨ s.cfgEnc = 1 ∨ s.cfgEnc = 2 ∨ s.cfgEnc = 3 := by
    generalize s.cfgEnc = c; revert c; decide
  have nch : s.cfgNch = 0 ∨ s.cfgNch = 1 ∨ s.cfgNch = 2 ∨ s.cfgNch = 3 := by
    generalize s.cfgNch = c; revert c; decide
  unfold checkConfig
  cases hm : modOf s.cfgMod with
  | none => exact .inl ⟨(modOf_eq_none_iff _).1 hm, rfl⟩
  | some mod =>
    have hm3 : s.cfgMod ≠ 3 := fun h => by rw [(modOf_eq_none_iff _).2 h] at hm; cases hm
    dsimp only
    split_ifs with h1 h2 h3
    · exact .inr (.inl ⟨hm3, h1, rfl⟩)
    · exact .inr (.inr (.inl ⟨hm3, by tauto, h2, rfl⟩))
    · refine .inr (.inr (.inr (.inl ⟨hm3, by tauto, by tauto, ?_, rfl⟩)))
      rw [← blockLegal_iff]; simpa using h3
    · refine .inr (.inr (.inr (.inr ⟨mod, rfl, ?_, rfl⟩)))
      exact ⟨hm3, by tauto, by tauto, (blockLegal_iff _).1 (by simpa using h3)⟩

/-- A write stores into one configuration register, in IDLE, or changes nothing. -/
theorem busWrite_cases (off : BitVec 8) (data : Word) (s : State) :
    busWrite off data s = s ∨ (s.phase = .idle ∧ ∃ r, regAt off = some r ∧ busWrite off data s = writeReg data s r) := by
  unfold busWrite
  cases regAt off with
  | none => exact .inl rfl
  | some r =>
    dsimp only
    split_ifs with h
    · exact .inr ⟨h, r, rfl, rfl⟩
    · exact .inl rfl

/-- What a write in IDLE can do to the state: only configuration registers change. -/
theorem writeReg_frame (data : Word) (s : State) (r : RegName) :
    ∃ cfg blksz inRate outRate bandwidth maxDev, writeReg data s r =
      { s with cfg := cfg, blksz := blksz, inRate := inRate, outRate := outRate, bandwidth := bandwidth,
               maxDev := maxDev } := by
  cases r <;> exact ⟨_, _, _, _, _, _, rfl⟩

/-- A step of a fill: its end, a wait, or one item. -/
theorem fillStep_cases (s : State) :
    ((s.n = s.blksz ∨ s.eos = true) ∧ s.n = 0 ∧
      fillStep s = { s with lastn := s.n, phase := .done, oclosed := true }) ∨
    ((s.n = s.blksz ∨ s.eos = true) ∧ s.n ≠ 0 ∧ fillStep s = { s with lastn := s.n, phase := .norm }) ∨
    (s.n ≠ s.blksz ∧ s.eos = false ∧ s.offered = none ∧ fillStep s = s) ∨
    (∃ b, s.n ≠ s.blksz ∧ s.eos = false ∧ s.offered = some (.byte b) ∧
      fillStep s =
        { s with offered := none, raw := s.raw.write s.n.toNat b, n := s.n + 1, incnt := s.incnt + 1 }) ∨
    (s.n ≠ s.blksz ∧ s.eos = false ∧ s.offered = some .eos ∧ fillStep s = { s with offered := none, eos := true }) ∨
    (s.n ≠ s.blksz ∧ s.eos = false ∧ s.offered = some .err ∧ fillStep s = raiseFault .ioRd { s with offered := none }) := by
  unfold fillStep
  split_ifs with h
  · unfold endFill
    split_ifs with h0
    · exact .inl ⟨h, h0, rfl⟩
    · exact .inr (.inl ⟨h, h0, rfl⟩)
  · obtain ⟨hn, he⟩ := not_or.1 h
    have he : s.eos = false := by simpa using he
    unfold takeInput
    cases ho : s.offered with
    | none => exact .inr (.inr (.inl ⟨hn, he, rfl, rfl⟩))
    | some x =>
      cases x with
      | byte b => exact .inr (.inr (.inr (.inl ⟨b, hn, he, rfl, rfl⟩)))
      | eos => exact .inr (.inr (.inr (.inr (.inl ⟨hn, he, rfl, rfl⟩))))
      | err => exact .inr (.inr (.inr (.inr (.inr ⟨hn, he, rfl, rfl⟩))))

/-- A response overflows, lacks its right sequence, or is accepted. -/
theorem checkResponse_cases (cap : Option Nat) (r : Response) (s : State) :
    (overflows cap r.left.length = true ∧ checkResponse cap r s = raiseFault .decOvf s) ∨
    (overflows cap r.left.length = false ∧ s.stereo = true ∧ rightFits r = false ∧
      checkResponse cap r s = raiseFault .decLen s) ∨
    (overflows cap r.left.length = false ∧ (s.stereo = true → rightFits r = true) ∧
      checkResponse cap r s = acceptResponse r s) := by
  unfold checkResponse
  split_ifs with h1 h2
  · exact .inl ⟨h1, rfl⟩
  · simp only [Bool.and_eq_true, Bool.not_eq_true'] at h2
    exact .inr (.inl ⟨by simpa using h1, h2.1, h2.2, rfl⟩)
  · refine .inr (.inr ⟨by simpa using h1, ?_, rfl⟩)
    intro hs
    simpa [hs] using h2

theorem overflows_false_iff (cap : Option Nat) (k : Nat) : overflows cap k = false ↔ framesFit cap k := by
  cases cap <;> simp [overflows, framesFit]

/-- M is the number of frames wherever 32 bits hold it. -/
theorem frameCount_of_lt {frames : Nat} (h : frames < 2 ^ 32) : (frameCount frames).toNat = frames := by
  rw [frameCount, if_pos h, BitVec.toNat_ofNat, Nat.mod_eq_of_lt h]

/-- M never exceeds the number of frames, free or not. -/
theorem frameCount_le (frames : Nat) : (frameCount frames).toNat ≤ frames := by
  by_cases h : frames < 2 ^ 32
  · exact (frameCount_of_lt h).le
  · exact (frameCount frames).isLt.le.trans (Nat.le_of_not_lt h)

theorem rightFits_iff (r : Response) :
    rightFits r = true ↔ ∃ right, r.right = some right ∧ right.length = r.left.length := by
  unfold rightFits
  cases r.right <;> simp

/-- The quantizer draws a free word for a NaN, and otherwise returns the word of the sample. -/
theorem quantize_cases (squared : Bool) (x : F32) (s : State) :
    (isNaN x = true ∧ quantize squared x s =
      { s with qnan := true, qword := Config.nanWord s.draws, draws := s.draws + 1 }) ∨
    (isNaN x = false ∧ quantize squared x s = { s with qword := BitVec.ofInt 16 (quantValue squared x) }) := by
  unfold quantize
  split_ifs with h
  · exact .inl ⟨h, rfl⟩
  · exact .inr ⟨by simpa using h, rfl⟩

/-- The quantizer changes nothing but QNAN, `qword` and `draws`. -/
theorem quantize_frame (squared : Bool) (x : F32) (s : State) :
    quantize squared x s = { s with
      qnan := (quantize squared x s).qnan
      qword := (quantize squared x s).qword
      draws := (quantize squared x s).draws } := by
  unfold quantize; split_ifs <;> rfl

/-- STAGE of a mono frame changes nothing but OST, OLEN, OPOS, QNAN, `qword` and `draws`. -/
theorem stageMono_frame (s : State) :
    stageMono s = { s with
      ost := (s.ost.write 0 ((stageMono s).qword.extractLsb' 0 8)).write 1 ((stageMono s).qword.extractLsb' 8 8)
      olen := 2
      opos := 0
      qnan := (stageMono s).qnan
      qword := (stageMono s).qword
      draws := (stageMono s).draws } := by
  simp only [stageMono]
  rw [quantize_frame]
  rfl

/-- STAGE of a stereo frame changes nothing but OST, OLEN, OPOS, QNAN, `qword` and `draws`. -/
theorem stageStereo_frame (s : State) :
    ∃ ql : PcmWord, stageStereo s = { s with
      ost := s.ost.writeFrom 0 (pcmBytes ql ++ pcmBytes (stageStereo s).qword)
      olen := 4
      opos := 0
      qnan := (stageStereo s).qnan
      qword := (stageStereo s).qword
      draws := (stageStereo s).draws } := by
  refine ⟨(quantize s.cfgSq (s.audLAt s.i.toNat) s).qword, ?_⟩
  simp only [stageStereo]
  rw [quantize_frame s.cfgSq (s.audRAt s.i.toNat), quantize_frame s.cfgSq (s.audLAt s.i.toNat) s]
  rfl

/-- WRITE waits, moves one byte, ends the frame, or faults. -/
theorem writeByte_cases (s : State) :
    (s.answer = none ∧ writeByte s = s) ∨
    (s.answer = some .accept ∧ s.opos + 1 = s.olen ∧ writeByte s =
      { s with answer := none, outBytes := s.outBytes ++ [s.ostAt s.opos.toNat], outcnt := s.outcnt + 1,
                          i := s.i + 1, olen := 0, opos := 0 }) ∨
    (s.answer = some .accept ∧ s.opos + 1 ≠ s.olen ∧ writeByte s =
      { s with answer := none, outBytes := s.outBytes ++ [s.ostAt s.opos.toNat], outcnt := s.outcnt + 1,
                          opos := s.opos + 1 }) ∨
    (s.answer = some .err ∧ writeByte s = raiseFault .ioWr { s with answer := none }) := by
  unfold writeByte
  cases ha : s.answer with
  | none => exact .inl ⟨rfl, rfl⟩
  | some a =>
    cases a with
    | err => exact .inr (.inr (.inr ⟨rfl, rfl⟩))
    | accept =>
      dsimp only [acceptByte]
      split_ifs with h
      · exact .inr (.inl ⟨rfl, h, rfl⟩)
      · exact .inr (.inr (.inl ⟨rfl, h, rfl⟩))

/-- An EMIT step writes, stages, finishes the block, or is stuck. -/
theorem emitStep_cases (stage : State → State) (s : State) :
    (s.opos < s.olen ∧ emitStep stage s = writeByte s) ∨
    (s.olen = 0 ∧ s.i < s.m ∧ emitStep stage s = stage s) ∨
    (s.olen = 0 ∧ s.i = s.m ∧ emitStep stage s = finishBlock s) ∨
    (¬s.opos < s.olen ∧ (s.olen = 0 → s.m < s.i) ∧ emitStep stage s = s) := by
  unfold emitStep
  split_ifs with h1 h2 h3
  · exact .inl ⟨h1, rfl⟩
  · exact .inr (.inl ⟨h2.1, h2.2, rfl⟩)
  · exact .inr (.inr (.inl ⟨h3.1, h3.2, rfl⟩))
  · exact .inr (.inr (.inr ⟨h1, by intro h; simp only [h, true_and] at h2 h3; bv_omega, rfl⟩))

/-- The Producer offers its next item or does nothing. -/
theorem producerTurn_cases (s : State) :
    (∃ x rest, s.offered = none ∧ s.inEnded = false ∧ s.producerQ = x :: rest ∧
      producerTurn s = { s with offered := some x, inEnded := endsStream x, producerQ := rest }) ∨
    ((s.offered ≠ none ∨ s.inEnded = true ∨ s.producerQ = []) ∧ producerTurn s = s) := by
  unfold producerTurn
  split
  · exact .inl ⟨_, _, ‹_›, ‹_›, ‹_›, rfl⟩
  · rename_i h
    refine .inr ⟨?_, rfl⟩
    by_contra hc
    simp only [not_or, ne_eq, not_not, Bool.not_eq_true] at hc
    obtain ⟨x, rest, hx⟩ := List.exists_cons_of_ne_nil hc.2.2
    exact h x rest hc.1 hc.2.1 hx

/-- The Consumer answers the byte offered or does nothing. -/
theorem consumerTurn_cases (s : State) :
    (∃ a rest, s.offersByte = true ∧ s.answer = none ∧ s.consumerQ = a :: rest ∧
      consumerTurn s = { s with answer := some a, consumerQ := rest }) ∨
    ((s.offersByte = false ∨ s.answer ≠ none ∨ s.consumerQ = []) ∧ consumerTurn s = s) := by
  unfold consumerTurn
  split
  · exact .inl ⟨_, _, ‹_›, ‹_›, ‹_›, rfl⟩
  · rename_i h
    refine .inr ⟨?_, rfl⟩
    by_contra hc
    simp only [not_or, ne_eq, not_not, Bool.not_eq_false] at hc
    obtain ⟨x, rest, hx⟩ := List.exists_cons_of_ne_nil hc.2.2
    exact h x rest hc.1 hc.2.1 hx

end Sys2Proof.Machine
end

