-- ==== Sys2Proof/Laws/PerInstr.lean ====
section
/-! SUPPORT. A statement about every operation, one lemma per constructor: the word `encode` gives an operation
matches that operation's row of spec/opcode_table.json. -/

namespace Sys2Proof.Laws.RowMatch

/-- The encoded operation matches its row (spec/30_encoding.md R98, R99). -/
def Statement (i : Instr) : Prop := i.matchesRow (encode i) = true

theorem srst : Statement .srst := rfl

theorem start : Statement .start := rfl

/-- A bit of a value, as a number. -/
theorem and_bit (w : BusWord) (k : Nat) : w.toNat &&& 2 ^ k = if w.getLsbD k then 2 ^ k else 0 := by
  apply Nat.eq_of_testBit_eq
  intro j
  rw [Nat.testBit_and, Nat.testBit_two_pow]
  by_cases h : k = j
  · subst h; rw [BitVec.testBit_toNat]; cases w.getLsbD k <;> simp
  · cases w.getLsbD k <;> simp [h]

/-- Bit 40 of a BUS value is W (spec/30_encoding.md R91). -/
theorem busWord_bit40 (write : Bool) (off : BitVec 8) (data : Word) :
    (busWord write off data).getLsbD 40 = write := by
  simp only [busWord, BitVec.getLsbD_append]
  cases write <;> rfl

/-- Bit 40 alone is tested, and a write has it set. -/
theorem regWr (off : BitVec 8) (data : Word) : Statement (.regWr off data) := by
  have h := and_bit (busWord true off data) 40
  rw [busWord_bit40] at h
  exact beq_iff_eq.mpr h

/-- Bit 40 alone is tested, and a read has it clear. -/
theorem regRd (off : BitVec 8) : Statement (.regRd off) := by
  have h := and_bit (busWord false off 0) 40
  rw [busWord_bit40] at h
  exact beq_iff_eq.mpr h

theorem check : Statement .check := rfl

theorem decInit : Statement .decInit := rfl

theorem readBlock : Statement .readBlock := rfl

theorem normU8 : Statement .normU8 := rfl

theorem normI16 : Statement .normI16 := rfl

theorem decodeAm : Statement .decodeAm := rfl

theorem decodeWbfm : Statement .decodeWbfm := rfl

theorem decodeNbfm : Statement .decodeNbfm := rfl

theorem emitMono : Statement .emitMono := rfl

theorem emitStereo : Statement .emitStereo := rfl

theorem quantLin : Statement .quantLin := rfl

theorem quantSq : Statement .quantSq := rfl

end Sys2Proof.Laws.RowMatch
end

