-- ==== Sys2Proof/Laws/Step.lean ====
section
/-! SUPPORT. What a Core turn, a Host turn and a step can do, said once. -/

namespace Sys2Proof.Machine

/-- Everything a Core turn can do when it answers a next state. -/
theorem coreTurn_cases {s t : State} (h : coreTurn s = .next t) :
    (s.phase.hasCoreStep = false ∧ t = s) ∨
    (s.phase = .check ∧ t = checkConfig Config.decoder s) ∨
    (s.phase = .read ∧ t = fillStep s) ∨
    (s.phase = .norm ∧ s.cfgEnc = 0 ∧ t = storeNormalized s.n (fun k => normU8Value (u8Sample s k)) s) ∨
    (s.phase = .norm ∧ s.cfgEnc = 1 ∧
      t = storeNormalized (s.n / 2) (fun k => normI16Value (i16Sample s k)) s) ∨
    (∃ mod, s.phase = .decode ∧ modOf s.cfgMod = some mod ∧
      t = decodeBlock Config.decoder Config.maxFrames mod s) ∨
    (s.phase = .emit ∧ s.cfgNch = 1 ∧ t = emitStep stageMono s) ∨
    (s.phase = .emit ∧ s.cfgNch = 2 ∧ t = emitStep stageStereo s) ∨
    (s.phase = .emit ∧ s.cfgNch ≠ 1 ∧ s.cfgNch ≠ 2 ∧ t = quantize s.cfgSq (s.audLAt s.i.toNat) s) := by
  unfold coreTurn at h
  rw [decodeOsw_osw] at h
  cases hp : s.phase <;> simp only [hp, Phase.hasCoreStep, if_true, if_false, Bool.false_eq_true] at h
  case idle | done | fault => cases h; simp [Phase.hasCoreStep]
  case check => cases h; simp
  case read => cases h; simp
  case norm =>
    unfold normRow at h
    split_ifs at h with h0 h1 <;> cases h
    · simp [h0]
    · simp [h1]
  case decode =>
    unfold decodeRow at h
    split_ifs at h with h0 h1 h2 <;> cases h
    · exact .inr (.inr (.inr (.inr (.inr (.inl ⟨.am, rfl, by simp [modOf, h0], rfl⟩)))))
    · exact .inr (.inr (.inr (.inr (.inr (.inl ⟨.wbfm, rfl, by simp [modOf, h1], rfl⟩)))))
    · exact .inr (.inr (.inr (.inr (.inr (.inl ⟨.nbfm, rfl, by simp [modOf, h2], rfl⟩)))))
  case emit =>
    unfold emitRow at h
    split_ifs at h with h1 h2
    · cases h; simp [h1]
    · cases h; simp [h2]
    · unfold quantRow at h
      split_ifs at h with hq <;> cases h
      · exact .inr (.inr (.inr (.inr (.inr (.inr (.inr (.inr ⟨rfl, h1, h2, by rw [hq]⟩)))))))
      · have hq : s.cfgSq = false := by simpa using hq
        exact .inr (.inr (.inr (.inr (.inr (.inr (.inr (.inr ⟨rfl, h1, h2, by rw [hq]⟩)))))))

/-- Everything a Host operation can do. -/
theorem execBus_cases {w : BusWord} {s t : State} (h : exec (decodeBus w) s = .next t) :
    t = resetCore s ∨
    (s.phase = .idle ∧ t = { s with phase := .check }) ∨
    t = s ∨
    (∃ data r, s.phase = .idle ∧ t = writeReg data s r) ∨
    (∃ v, t = { s with hostReads := s.hostReads ++ [v] }) := by
  rcases decodeBus_cases w with e | e | ⟨off, data, e⟩ | ⟨off, e⟩ <;> rw [e] at h
  · cases h; exact .inl rfl
  · simp only [exec, execStart] at h
    split_ifs at h with hp <;> cases h
    · exact .inr (.inl ⟨hp, rfl⟩)
    · exact .inr (.inr (.inl rfl))
  · simp only [exec, execRegWr, Host.Outcome.next.injEq] at h
    rcases busWrite_cases off data s with e | ⟨hp, r, -, e⟩
    · exact .inr (.inr (.inl (h ▸ e)))
    · exact .inr (.inr (.inr (.inl ⟨data, r, hp, h ▸ e⟩)))
  · cases h; exact .inr (.inr (.inr (.inr ⟨_, rfl⟩)))

/-- The state in which a turn is taken: the turn is off the schedule. -/
def State.afterTurn (s : State) : State := { s with schedule := s.schedule.tail }

/-- Everything a step can do when it answers a next state. -/
theorem step_cases {s t : State} (h : step s = .next t) :
    ((s.schedule = [] ∨ s.schedule.head? = some .core) ∧ coreTurn s.afterTurn = .next t) ∨
    (s.schedule.head? = some .host ∧ s.hostQ = [] ∧ t = s.afterTurn) ∨
    (∃ w rest, s.schedule.head? = some .host ∧ s.hostQ = w :: rest ∧
      exec (decodeBus w) { s.afterTurn with hostQ := rest } = .next t) ∨
    (s.schedule.head? = some .producer ∧ t = producerTurn s.afterTurn) ∨
    (s.schedule.head? = some .consumer ∧ t = consumerTurn s.afterTurn) ∨
    (s.schedule.head? = some .reset ∧ t = resetCore s.afterTurn) := by
  unfold step at h
  unfold State.afterTurn
  cases hs : s.schedule with
  | nil =>
    simp only [hs] at h
    refine .inl ⟨.inl rfl, ?_⟩
    have : ({ s with schedule := [] } : State) = s := by rw [← hs]
    simpa [this] using h
  | cons a rest =>
    simp only [hs] at h
    cases a <;> simp only [takeTurn] at h
    · exact .inl ⟨.inr rfl, h⟩
    · unfold hostTurn at h
      cases hq : s.hostQ with
      | nil =>
        simp only [hq] at h; cases h
        exact .inr (.inl ⟨rfl, rfl, rfl⟩)
      | cons w ws =>
        simp only [hq] at h
        exact .inr (.inr (.inl ⟨w, ws, rfl, rfl, h⟩))
    · cases h; exact .inr (.inr (.inr (.inl ⟨rfl, rfl⟩)))
    · cases h; exact .inr (.inr (.inr (.inr (.inl ⟨rfl, rfl⟩))))
    · cases h; exact .inr (.inr (.inr (.inr (.inr ⟨rfl, rfl⟩))))

end Sys2Proof.Machine
end

