-- ==== Sys2Proof/Laws/Transition.lean ====
section
/-! SUPPORT. Every way a step can change the state, as one relation: `step_transition` is the one inversion lemma of
a step. The values that NORM, DECODE and STAGE write are in `coreTurn_cases`. -/

namespace Sys2Proof.Machine

/-- QNAN after the scalar quantizer. -/
@[simp] theorem quantize_qnan (squared : Bool) (x : F32) (s : State) :
    (quantize squared x s).qnan = (s.qnan || isNaN x) := by
  rcases quantize_cases squared x s with ⟨a, e⟩ | ⟨a, e⟩ <;> rw [e] <;> simp [a]

/-- A step from `s` reaches a state: one constructor per way. -/
inductive Transition (s : State) : State → Prop
  /-- The input RST, or SRST. -/
  | reset (u) : Transition s (resetCore u)
  /-- A turn of an agent that does nothing, or a read that the Host receives. -/
  | same (q v) : Transition s { s with schedule := s.schedule.tail, hostQ := q, hostReads := v }
  | start (q) (h : s.phase = .idle) :
      Transition s { s with schedule := s.schedule.tail, hostQ := q, phase := .check }
  | write (q c b i o w m) (h : s.phase = .idle) :
      Transition s { s with
        schedule := s.schedule.tail, hostQ := q, cfg := c, blksz := b, inRate := i, outRate := o, bandwidth := w,
        maxDev := m }
  | checkFault (c) (hc : c = .cfgMod ∨ c = .cfgEnc ∨ c = .cfgNch ∨ c = .cfgBlk) (h : s.phase = .check) :
      Transition s { s with schedule := s.schedule.tail, err := c, phase := .fault, oclosed := true }
  | checkOk (d) (h : s.phase = .check) (hl : s.configLegal) :
      Transition s { s with schedule := s.schedule.tail, dstate := some d, n := 0, phase := .read }
  | fillDone (h : s.phase = .read) (he : s.n = s.blksz ∨ s.eos = true) (hn : s.n = 0) :
      Transition s { s with schedule := s.schedule.tail, lastn := s.n, phase := .done, oclosed := true }
  | fillNorm (h : s.phase = .read) (he : s.n = s.blksz ∨ s.eos = true) (hn : s.n ≠ 0) :
      Transition s { s with schedule := s.schedule.tail, lastn := s.n, phase := .norm }
  | fillByte (b) (h : s.phase = .read) (hn : s.n ≠ s.blksz) (he : s.eos = false)
      (ho : s.offered = some (.byte b)) :
      Transition s { s with
        schedule := s.schedule.tail, offered := none, raw := s.raw.write s.n.toNat b, n := s.n + 1,
        incnt := s.incnt + 1 }
  | fillEos (h : s.phase = .read) (hn : s.n ≠ s.blksz) (he : s.eos = false) (ho : s.offered = some .eos) :
      Transition s { s with schedule := s.schedule.tail, offered := none, eos := true }
  | fillErr (h : s.phase = .read) (hn : s.n ≠ s.blksz) (he : s.eos = false) (ho : s.offered = some .err) :
      Transition s { s with
        schedule := s.schedule.tail, offered := none, err := .ioRd, phase := .fault, oclosed := true }
  | norm (c n) (h : s.phase = .norm) :
      Transition s { s with schedule := s.schedule.tail, norm := n, ns := c, phase := .decode }
  | decFault (c) (hc : c = .decLen ∨ c = .decOvf) (h : s.phase = .decode) :
      Transition s { s with schedule := s.schedule.tail, err := c, phase := .fault, oclosed := true }
  | decOk (mod) (l r) (h : s.phase = .decode) (hm : modOf s.cfgMod = some mod) :
      Transition s { s with
        schedule := s.schedule.tail, dstate := some (responseOf Config.decoder mod s).next,
        m := frameCount (responseOf Config.decoder mod s).left.length, audL := l, audR := r, blkcnt := s.blkcnt + 1,
        i := 0, olen := 0, opos := 0, phase := .emit }
  | stageMono (o q w d) (h : s.phase = .emit) (ho : s.olen = 0) (hi : s.i < s.m) (hn : s.cfgNch = 1)
      (hq : q = (s.qnan || isNaN (s.audLAt s.i.toNat))) :
      Transition s { s with
        schedule := s.schedule.tail, ost := o, olen := 2, opos := 0, qnan := q, qword := w, draws := d }
  | stageStereo (o q w d) (h : s.phase = .emit) (ho : s.olen = 0) (hi : s.i < s.m) (hn : s.cfgNch = 2)
      (hq : q = (s.qnan || isNaN (s.audLAt s.i.toNat) || isNaN (s.audRAt s.i.toNat))) :
      Transition s { s with
        schedule := s.schedule.tail, ost := o, olen := 4, opos := 0, qnan := q, qword := w, draws := d }
  | writeLast (h : s.phase = .emit) (ho : s.opos < s.olen) (ha : s.answer = some .accept)
      (hl : s.opos + 1 = s.olen) :
      Transition s { s with
        schedule := s.schedule.tail, answer := none, outBytes := s.outBytes ++ [s.ostAt s.opos.toNat],
        outcnt := s.outcnt + 1, i := s.i + 1, olen := 0, opos := 0 }
  | writeMore (h : s.phase = .emit) (ho : s.opos < s.olen) (ha : s.answer = some .accept)
      (hl : s.opos + 1 ≠ s.olen) :
      Transition s { s with
        schedule := s.schedule.tail, answer := none, outBytes := s.outBytes ++ [s.ostAt s.opos.toNat],
        outcnt := s.outcnt + 1, opos := s.opos + 1 }
  | writeErr (h : s.phase = .emit) (ho : s.opos < s.olen) (ha : s.answer = some .err) :
      Transition s { s with
        schedule := s.schedule.tail, answer := none, err := .ioWr, phase := .fault, oclosed := true }
  | writeWait (h : s.phase = .emit) (ho : s.opos < s.olen) (ha : s.answer = none) :
      Transition s { s with schedule := s.schedule.tail }
  | stuck (h : s.phase = .emit) (ho : ¬s.opos < s.olen) : Transition s { s with schedule := s.schedule.tail }
  | finish (h : s.phase = .emit) (ho : s.olen = 0) (hi : s.i = s.m) :
      Transition s { s with schedule := s.schedule.tail, n := 0, phase := .read }
  /-- A reserved NCH, which no run meets in EMIT. -/
  | quant (h : s.phase = .emit) (h1 : s.cfgNch ≠ 1) (h2 : s.cfgNch ≠ 2) :
      Transition s (quantize s.cfgSq (s.audLAt s.i.toNat) { s with schedule := s.schedule.tail })
  | offer (x rest) (ho : s.offered = none) (hi : s.inEnded = false) (hq : s.producerQ = x :: rest) :
      Transition s { s with
        schedule := s.schedule.tail, offered := some x, inEnded := endsStream x, producerQ := rest }
  | answer (a rest) (ho : s.offersByte = true) (hi : s.answer = none) (hq : s.consumerQ = a :: rest) :
      Transition s { s with schedule := s.schedule.tail, answer := some a, consumerQ := rest }

/-- An EMIT turn of a mono or a stereo run is one of the transitions. -/
theorem emit_transition {s : State} {stage : State → State} (hp : s.phase = .emit)
    (hs : (s.cfgNch = 1 ∧ stage = Machine.stageMono) ∨ (s.cfgNch = 2 ∧ stage = Machine.stageStereo)) :
    Transition s (emitStep stage s.afterTurn) := by
  rcases emitStep_cases stage s.afterTurn with ⟨h1, e⟩ | ⟨h1, h2, e⟩ | ⟨h1, h2, e⟩ | ⟨h1, _, e⟩ <;> rw [e]
  · rcases writeByte_cases s.afterTurn with ⟨h2, e⟩ | ⟨h3, h2, e⟩ | ⟨h3, h2, e⟩ | ⟨h2, e⟩ <;> rw [e]
    · exact .writeWait hp h1 h2
    · exact .writeLast hp h1 h3 h2
    · exact .writeMore hp h1 h3 h2
    · exact .writeErr hp h1 h2
  · rcases hs with ⟨hn, rfl⟩ | ⟨hn, rfl⟩
    · rw [stageMono_frame]
      exact .stageMono _ _ _ _ hp h1 h2 hn
        (by simp only [Machine.stageMono, stageBytes_qnan]; rw [quantize_qnan]; rfl)
    · obtain ⟨_, e⟩ := stageStereo_frame s.afterTurn
      rw [e]
      exact .stageStereo _ _ _ _ hp h1 h2 hn
        (by simp only [Machine.stageStereo, stageBytes_qnan]; rw [quantize_qnan, quantize_qnan]; rfl)
  · exact .finish hp h1 h2
  · exact .stuck hp h1

/-- A Core turn is one of the transitions. -/
theorem coreTurn_transition {s t : State} (e : coreTurn s.afterTurn = .next t) : Transition s t := by
  rcases coreTurn_cases e with ⟨hq, rfl⟩ | ⟨hp, rfl⟩ | ⟨hp, rfl⟩ | ⟨hp, he, rfl⟩ | ⟨hp, he, rfl⟩ |
    ⟨mod, hp, hm, rfl⟩ | ⟨hp, hn, rfl⟩ | ⟨hp, hn, rfl⟩ | ⟨hp, h1, h2, rfl⟩
  · exact .same s.hostQ s.hostReads
  · rcases checkConfig_cases Config.decoder s.afterTurn with
      ⟨_, e⟩ | ⟨_, _, e⟩ | ⟨_, _, _, e⟩ | ⟨_, _, _, _, e⟩ | ⟨mod, _, hl, e⟩ <;> rw [e]
    · exact .checkFault _ (by simp) hp
    · exact .checkFault _ (by simp) hp
    · exact .checkFault _ (by simp) hp
    · exact .checkFault _ (by simp) hp
    · exact .checkOk _ hp hl
  · rcases fillStep_cases s.afterTurn with
      ⟨h1, h2, e⟩ | ⟨h1, h2, e⟩ | ⟨_, _, _, e⟩ | ⟨b, h1, h2, h3, e⟩ | ⟨h1, h2, h3, e⟩ | ⟨h1, h2, h3, e⟩ <;> rw [e]
    · exact .fillDone hp h1 h2
    · exact .fillNorm hp h1 h2
    · exact .same s.hostQ s.hostReads
    · exact .fillByte b hp h1 h2 h3
    · exact .fillEos hp h1 h2 h3
    · exact .fillErr hp h1 h2 h3
  · exact .norm _ _ hp
  · exact .norm _ _ hp
  · unfold decodeBlock
    rcases checkResponse_cases Config.maxFrames (responseOf Config.decoder mod s.afterTurn) s.afterTurn with
      ⟨_, e⟩ | ⟨_, _, _, e⟩ | ⟨_, _, e⟩ <;> rw [e]
    · exact .decFault _ (by simp) hp
    · exact .decFault _ (by simp) hp
    · exact .decOk mod _ _ hp hm
  · exact emit_transition hp (.inl ⟨hn, rfl⟩)
  · exact emit_transition hp (.inr ⟨hn, rfl⟩)
  · exact .quant hp h1 h2

/-- Every step that answers a next state is one of the transitions. -/
theorem step_transition {s t : State} (h : step s = .next t) : Transition s t := by
  rcases step_cases h with ⟨_, e⟩ | ⟨_, _, rfl⟩ | ⟨w, rest, _, _, e⟩ | ⟨_, rfl⟩ | ⟨_, rfl⟩ | ⟨_, rfl⟩
  · exact coreTurn_transition e
  · exact .same s.hostQ s.hostReads
  · rcases execBus_cases e with rfl | ⟨hp, rfl⟩ | rfl | ⟨d, r, hp, rfl⟩ | ⟨v, rfl⟩
    · exact .reset _
    · exact .start _ hp
    · exact .same rest s.hostReads
    · obtain ⟨c, b, i, o, w, m, e⟩ := writeReg_frame d { s.afterTurn with hostQ := rest } r
      rw [e]
      exact .write rest c b i o w m hp
    · exact .same rest _
  · rcases producerTurn_cases s.afterTurn with ⟨x, rest, h1, h2, h3, e⟩ | ⟨_, e⟩ <;> rw [e]
    · exact .offer x rest h1 h2 h3
    · exact .same s.hostQ s.hostReads
  · rcases consumerTurn_cases s.afterTurn with ⟨x, rest, h1, h2, h3, e⟩ | ⟨_, e⟩ <;> rw [e]
    · exact .answer x rest h1 h2 h3
    · exact .same s.hostQ s.hostReads
  · exact .reset _

end Sys2Proof.Machine
end

