-- ==== Sys2Proof/Tests/Slice0.lean ====
section
/-! SUPPORT. Tests: ill-formed terms refused, words written out from spec/30_encoding.md, the vectors of
spec/95_test_vectors.md, and for each statement with premises a state that meets them. -/

namespace Sys2Proof.Tests

open Sys2Proof Sys2Proof.Machine

/-! ### Well-formedness -/

/-- A write of START or SRST to CTRL is no REG.WR (spec/30_encoding.md R98). -/
theorem test_wellFormed_refuses_command_writes :
    Instr.wellFormed (.regWr 0x18 1) = false ∧ Instr.wellFormed (.regWr 0x18 0xFFFFFFFE) = false ∧
    Instr.wellFormed (.regWr 0x18 4) = true ∧ Instr.wellFormed (.regWr 0x1C 3) = true := by decide

/-- DEC.INIT has no word of its own (spec/41_decoder.md R141). -/
theorem test_wellFormed_refuses_decInit : Instr.wellFormed .decInit = false := by decide

/-! ### Decoding: words written out from R91 `{W, OFF, DATA}` and R92 `{PH, 00000, SQ, NCH, ENC, MOD}` -/

/-- W = 1, OFF = 0001_1000, bit 1, with and without START: H-10. -/
theorem test_decode_srst :
    decodeBus (0b1#1 ++ 0b00011000#8 ++ 0b10#32) = .srst ∧
    decodeBus (0b1#1 ++ 0b00011000#8 ++ 0b11#32) = .srst := by decide

theorem test_decode_start : decodeBus (0b1#1 ++ 0b00011000#8 ++ 0b01#32) = .start := by decide

/-- P1's `WR BLKSZ, 4`, and CTRL without a command bit. -/
theorem test_decode_regWr :
    decodeBus (0b1#1 ++ 0b00000100#8 ++ 0b100#32) = .regWr 0x04 4 ∧
    decodeBus (0b1#1 ++ 0b00011000#8 ++ 0b100#32) = .regWr 0x18 4 := by decide

/-- P1's `RD STATUS`; the data of a read are ignored. -/
theorem test_decode_regRd :
    decodeBus (0b0#1 ++ 0b00011100#8 ++ 0#32) = .regRd 0x1C ∧
    decodeBus (0b0#1 ++ 0b00011000#8 ++ 0b11#32) = .regRd 0x18 := by decide

/-- DEC.INIT is performed by the CHECK step, whose word this is. -/
theorem test_decode_check_and_decInit : decodeOsw 0b0001_00000_0_01_01_00#16 = .ok .check := by decide

theorem test_decode_readBlock : decodeOsw 0b0010_00000_1_10_01_11#16 = .ok .readBlock := by decide

theorem test_decode_norm :
    decodeOsw 0b0011_00000_1_01_00_10#16 = .ok .normU8 ∧ decodeOsw 0b0011_00000_0_10_01_00#16 = .ok .normI16 ∧
    decodeOsw 0b0011_00000_0_10_10_00#16 = .error .reservedEnc := by decide

theorem test_decode_decode :
    decodeOsw 0b0100_00000_0_01_01_00#16 = .ok .decodeAm ∧ decodeOsw 0b0100_00000_0_01_01_01#16 = .ok .decodeWbfm ∧
    decodeOsw 0b0100_00000_0_01_01_10#16 = .ok .decodeNbfm ∧
    decodeOsw 0b0100_00000_0_01_01_11#16 = .error .reservedMod := by decide

theorem test_decode_emit :
    decodeOsw 0b0101_00000_1_01_01_00#16 = .ok .emitMono ∧
    decodeOsw 0b0101_00000_1_10_01_00#16 = .ok .emitStereo := by decide

/-- Only a reserved NCH leaves the QUANT row as the one that matches. -/
theorem test_decode_quant :
    decodeOsw 0b0101_00000_0_00_01_00#16 = .ok .quantLin ∧
    decodeOsw 0b0101_00000_1_11_01_00#16 = .ok .quantSq := by decide

theorem test_decode_refuses :
    decodeOsw 0b0000_00000_0_01_01_00#16 = .error .noStepPhase ∧
    decodeOsw 0b0110_00000_0_01_01_00#16 = .error .noStepPhase ∧
    decodeOsw 0b1000_00000_0_01_01_00#16 = .error .reservedPhase ∧
    decodeOsw 0b0010_00001_0_01_01_00#16 = .error .zeroField := by decide

/-! ### Vectors of spec/95_test_vectors.md -/

/-- N1 to N8. -/
theorem test_normU8_vectors :
    normU8Value 0x00 = 0xBF800000 ∧ normU8Value 0x01 = 0xBF7E0000 ∧ normU8Value 0x40 = 0xBF000000 ∧
    normU8Value 0x7F = 0xBC000000 ∧ normU8Value 0x80 = 0x00000000 ∧ normU8Value 0x81 = 0x3C000000 ∧
    normU8Value 0xC0 = 0x3F000000 ∧ normU8Value 0xFF = 0x3F7E0000 := by decide

/-- N10 to N18. -/
theorem test_normI16_vectors :
    normI16Value (-32768) = 0xBF800000 ∧ normI16Value 32767 = 0x3F7FFE00 ∧ normI16Value 0 = 0x00000000 ∧
    normI16Value (-1) = 0xB8000000 ∧ normI16Value 1 = 0x38000000 ∧ normI16Value 16384 = 0x3F000000 ∧
    normI16Value (-16384) = 0xBF000000 ∧ normI16Value 128 = 0x3B800000 := by decide

/-- N14 and N21: five bytes give two samples, the low byte first. -/
theorem test_normI16_drops_the_odd_byte :
    let s := { State.reset with n := 5, raw := [(0, 0x34), (1, 0x12), (2, 0x00), (3, 0xC0), (4, 0x7F)] }
    i16Sample s 0 = 0x1234 ∧
    exec .normI16 s = .next { s with norm := [(0, 0x3E11A000), (1, 0xBF000000)], ns := 2, phase := .decode } := by
  exact ⟨by decide, rfl⟩

/-- N9: every byte of an odd count is a sample. -/
theorem test_normU8_counts :
    let s := { State.reset with n := 3, raw := [(0, 0x00), (1, 0x80), (2, 0xFF)] }
    exec .normU8 s = .next { s with
      norm := [(0, 0xBF800000), (1, 0x00000000), (2, 0x3F7E0000)], ns := 3, phase := .decode } := rfl

/-- Q3 to Q6, Q8, Q12, Q15 (a rounded product), Q17, Q18, Q21, Q22. -/
theorem test_quantLin_vectors :
    linValue .trunc 0x3F800000 = 32767 ∧ linValue .trunc 0xBF800000 = -32767 ∧
    linValue .trunc 0x3F000000 = 16383 ∧ linValue .trunc 0xBF000000 = -16383 ∧
    linValue .trunc 0xC2C80000 = -32767 ∧ linValue .trunc 0x3F7FFE00 = 32766 ∧
    linValue .trunc 0x38000100 = 1 ∧ linValue .trunc 0x3F800001 = 32767 ∧ linValue .trunc 0x00000001 = 0 ∧
    linValue .trunc 0x7F800000 = 32767 ∧ linValue .trunc 0xFF800000 = -32767 := by decide

/-- Q23: a product that overflows to an infinity. -/
theorem test_quantLin_overflow :
    scaleSample 0x7F61B1E6 = 0x7F800000 ∧ linValue .trunc 0x7F61B1E6 = 32767 := by decide +kernel

/-- Q5, Q11, Q16 under RNE. -/
theorem test_quantLin_rne_vectors :
    linValue .rne 0x3F000000 = 16384 ∧ linValue .rne 0xBC000000 = -256 ∧ linValue .rne 0x38400180 = 2 := by decide

/-- Q1, Q2, Q18, Q19, Q20, Q22: subnormals keep their sign. -/
theorem test_quantSq_vectors :
    sqValue 0x00000000 = 0 ∧ sqValue 0x80000000 = 0 ∧ sqValue 0x00000001 = 32767 ∧
    sqValue 0x80000001 = -32767 ∧ sqValue 0x0DA24260 = 32767 ∧ sqValue 0xFF800000 = -32767 := by decide

/-- Q24: a NaN sets QNAN; its word is free. -/
theorem test_quant_nan :
    exec .quantLin { State.reset with audL := [(0, 0x7FC00000)] } =
      .next { State.reset with audL := [(0, 0x7FC00000)], qnan := true, qword := Config.nanWord 0, draws := 1 } ∧
    exec .quantSq { State.reset with audL := [(0, 0xFF800001)] } =
      .next { State.reset with audL := [(0, 0xFF800001)], qnan := true, qword := Config.nanWord 0, draws := 1 } :=
  ⟨rfl, rfl⟩

/-- R12: `+0.0 = -0.0`, a NaN equals nothing, and neighbours differ. -/
theorem test_fEq :
    fEq 0x00000000 0x80000000 = true ∧ fEq 0x7FC00000 0x7FC00000 = false ∧ fEq 0x3F800000 0x3F800000 = true ∧
    fEq 0x3F800000 0x3F800001 = false ∧ fEq 0x7F800000 0xFF800000 = false := by decide

/-- The binary32 values nearest to 1/3, 1/10 and -1/32767 (spec/42_quantizer.md R162 gives the last). -/
theorem test_realToF32 :
    realToF32 (1 / 3 : ℚ) = 0x3EAAAAAB ∧ realToF32 (1 / 10 : ℚ) = 0x3DCCCCCD ∧
    realToF32 (-1 / 32767 : ℚ) = 0xB8000100 := by decide +kernel

/-- M of the longest response that 32 bits count, and of a longer one, which is free. -/
theorem test_frameCount :
    frameCount 0xFFFFFFFF = 0xFFFFFFFF ∧ frameCount 0x100000000 = Config.longFrameCount 0x100000000 := ⟨rfl, rfl⟩

/-- A state of an EMIT phase about to stage frame 0. -/
def emitting (cfg : Word) (left right : List F32) : State :=
  { State.reset with
    cfg := cfg, phase := .emit, m := BitVec.ofNat 32 left.length,
    audL := Memory.writeFrom [] 0 left, audR := Memory.writeFrom [] 0 right }

/-- E1: frame 0 is `FF 7F`. -/
theorem test_emitMono_stages :
    exec .emitMono (emitting 0x10 [0x3F800000, 0xBF800000] []) =
      .next { emitting 0x10 [0x3F800000, 0xBF800000] [] with
        ost := [(0, 0xFF), (1, 0x7F)], olen := 2, qword := 0x7FFF } := rfl

/-- E2: left, then right, squared. -/
theorem test_emitStereo_stages :
    exec .emitStereo (emitting 0x60 [0x3F000000] [0xBF000000]) =
      .next { emitting 0x60 [0x3F000000] [0xBF000000] with
        ost := [(0, 0xFF), (1, 0x7F), (2, 0x01), (3, 0x80)], olen := 4, qword := 0x8001 } := rfl

/-- E3: the bytes of a whole stereo block. -/
theorem test_emit_block_bytes :
    (emitting 0x20 [0x3F000000, 0xBF000000] [0xBF000000, 0x3F000000]).blockBytes 0 2 =
      [0xFF, 0x3F, 0x01, 0xC0, 0x01, 0xC0, 0xFF, 0x3F] := by decide

/-- The decoder PASS of spec/95_test_vectors.md 2.5. -/
def pass : Decoder where
  init _ _ := ⟨0⟩
  decode _ _ xs _ := { next := ⟨0⟩, left := xs, right := some (xs.map (· ^^^ 0x80000000)) }

/-- The decoder BAD of spec/95_test_vectors.md 2.5. -/
def bad : Decoder where
  init _ _ := ⟨0⟩
  decode _ _ xs _ := { next := ⟨0⟩, left := xs, right := none }

/-- A DECODE step about to be taken on two samples. -/
def decoding (cfg : Word) : State :=
  { State.reset with
    cfg := cfg, phase := .decode, dstate := some ⟨0⟩, ns := 2, norm := [(0, 0x3F000000), (1, 0x00000000)] }

/-- D-1 and D-4: in mono the right sequence is ignored. -/
theorem test_decode_mono_ignores_right :
    decodeBlock pass none .am (decoding 0x10) = decodeBlock bad none .am (decoding 0x10) ∧
    decodeBlock pass none .am (decoding 0x10) = { decoding 0x10 with
      m := 2, audL := [(0, 0x3F000000), (1, 0x00000000)], blkcnt := 1, phase := .emit } := ⟨rfl, rfl⟩

/-- D-3 and D-6: the length check of the frame buffers comes first. -/
theorem test_decode_faults :
    decodeBlock bad none .wbfm (decoding 0x20) =
      { decoding 0x20 with err := .decLen, phase := .fault, oclosed := true } ∧
    decodeBlock bad (some 1) .wbfm (decoding 0x20) =
      { decoding 0x20 with err := .decOvf, phase := .fault, oclosed := true } ∧
    decodeBlock pass (some 1) .nbfm (decoding 0x10) =
      { decoding 0x10 with err := .decOvf, phase := .fault, oclosed := true } := ⟨rfl, rfl, rfl⟩

/-- H-1, H-3, H-8: BLKSZ bit 0 and CFG bits [31:7] are not stored; outside IDLE nothing is. -/
theorem test_regWr :
    exec (.regWr 0x04 65537) State.reset = .next { State.reset with blksz := 65536 } ∧
    exec (.regWr 0x00 0xFFFFFFFF) State.reset = .next { State.reset with cfg := 0x7F } ∧
    exec (.regWr 0x00 0x10) { State.reset with phase := .read } = .next { State.reset with phase := .read } :=
  ⟨rfl, rfl, rfl⟩

/-- H-4 and H-12: STATUS after CFG_MOD is 0x107; reserved and misaligned offsets read 0. -/
theorem test_regRd :
    let s := { State.reset with cfg := 0x17, phase := .fault, err := .cfgMod, oclosed := true }
    exec (.regRd 0x1C) s = .next { s with hostReads := [0x107] } ∧
    exec (.regRd 0x30) s = .next { s with hostReads := [0] } ∧
    exec (.regRd 0x02) s = .next { s with hostReads := [0] } := ⟨rfl, rfl, rfl⟩

/-- S8 and R166: the Consumer's ERR faults IO_WR and counts nothing. -/
theorem test_emit_write_error :
    let s := { emitting 0x10 [0x3F800000] [] with ost := [(0, 0xFF), (1, 0x7F)], olen := 2, answer := some .err }
    exec .emitMono s = .next { s with answer := none, err := .ioWr, phase := .fault, oclosed := true } := rfl

/-- The Core takes the turn of an OSW word, the Host that of a BUS word. -/
theorem test_withFetchWord :
    step (State.reset.withFetchWord 16 0x2014) = .next { State.reset with phase := .read } ∧
    step (State.reset.withFetchWord 41 0x11800000001) = .next { State.reset with phase := .check } := ⟨rfl, rfl⟩

/-! ### States that meet the premises of the statements -/

/-- A fill with nothing read yet; `x` is offered. -/
def filling (x : Option InItem) : State :=
  { State.reset with
    cfg := 0x10, blksz := 2, phase := .read, dstate := some ⟨0⟩, offered := x, inEnded := x.any endsStream }

theorem two_le_maxBlock : 2 ≤ Config.maxBlock := by
  unfold Config.maxBlock Config.defaultBlock; omega

theorem reset_blksz_le_maxBlock : 65536 ≤ Config.maxBlock := by
  unfold Config.maxBlock Config.defaultBlock; omega

/-- With nothing stored the buffers are in bounds. -/
theorem empty_buffers {s : State} (hraw : s.raw = []) (hnorm : s.norm = []) (hl : s.audL = []) (hr : s.audR = [])
    (host : s.ost = []) (hn : s.n = 0) (hns : s.ns = 0) (hm : s.m = 0) (hi : s.i = 0) (ho : s.olen = 0) :
    BuffersInv s := by
  constructor <;>
    simp [hraw, hnorm, hl, hr, host, hn, hns, hm, hi, ho, Memory.wf, Memory.Within, Memory.Filled, framesFit]

theorem filling_inv (x : Option InItem) : StateInv (filling x) where
  registers := by
    constructor <;>
      simp [filling, State.reset, Phase.isTerminal, Phase.afterCheck, State.configLegal, State.cfgMod, State.cfgEnc,
        State.cfgNch, two_le_maxBlock]
  buffers := empty_buffers rfl rfl rfl rfl rfl rfl rfl rfl rfl rfl
  streams := by
    constructor <;>
      simp +contextual [filling, State.reset, Phase.inBlock, Phase.afterCheck]

/-- CHECK about to run. -/
def checking (cfg : Word) : State :=
  { State.reset with cfg := cfg, blksz := 2, phase := .check }

theorem checking_inv : StateInv (checking 0x10) where
  registers := by
    constructor <;> simp [checking, State.reset, Phase.isTerminal, Phase.afterCheck]
  buffers := empty_buffers rfl rfl rfl rfl rfl rfl rfl rfl rfl rfl
  streams := by
    constructor <;> simp +contextual [checking, State.reset, Phase.inBlock, Phase.afterCheck]

/-- A run that ended well on empty input. -/
def ended : State :=
  { State.reset with phase := .done, eos := true, inEnded := true, oclosed := true, dstate := some ⟨0⟩ }

theorem ended_inv : StateInv ended where
  registers := by
    constructor <;>
      simp [ended, State.reset, Phase.isTerminal, Phase.afterCheck, State.configLegal, State.cfgMod, State.cfgEnc,
        State.cfgNch, reset_blksz_le_maxBlock]
  buffers := empty_buffers rfl rfl rfl rfl rfl rfl rfl rfl rfl rfl
  streams := by
    constructor <;> simp +contextual [ended, State.reset, Phase.inBlock, Phase.afterCheck]

/-- A run that CHECK ended with CFG_MOD. -/
def faulted : State :=
  { State.reset with cfg := 0x17, phase := .fault, err := .cfgMod, oclosed := true }

theorem faulted_inv : StateInv faulted where
  registers := by
    constructor <;> simp [faulted, State.reset, Phase.isTerminal, Phase.afterCheck]
  buffers := empty_buffers rfl rfl rfl rfl rfl rfl rfl rfl rfl rfl
  streams := by
    constructor <;> simp +contextual [faulted, State.reset, Phase.inBlock, Phase.afterCheck]

/-- A block of two u8 samples, normalized, with no frame decoded yet, or with none returned. -/
def block (p : Phase) (stereo : Bool) : State :=
  { State.reset with
    cfg := if stereo then 0x20 else 0x10, blksz := 2, phase := p, dstate := some ⟨0⟩, incnt := 2, lastn := 2,
    n := 2, raw := [(0, 0x80), (1, 0xC0)], ns := 2, norm := [(0, 0x00000000), (1, 0x3F000000)] }

theorem pair_filled {α : Type} (a b : α) : Memory.Filled [(0, a), (1, b)] 2 := by
  intro k hk
  interval_cases k <;> rfl

theorem pair_within {α : Type} (a b : α) {bound : Nat} (h : 2 ≤ bound) :
    Memory.Within [(0, a), (1, b)] bound := by
  intro k hk
  by_contra hc
  simp [read_cons, show ¬0 = k by omega, show ¬1 = k by omega] at hk

theorem block_inv (p : Phase) (stereo : Bool) (hp : p = .norm ∨ p = .decode ∨ p = .emit) :
    StateInv (block p stereo) where
  registers := by
    constructor <;> rcases hp with rfl | rfl | rfl <;> cases stereo <;>
      simp [block, State.reset, Phase.isTerminal, Phase.afterCheck, State.configLegal, State.cfgMod, State.cfgEnc,
        State.cfgNch, two_le_maxBlock]
  buffers := by
    constructor
    case rawWithin => exact pair_within _ _ two_le_maxBlock
    case normWithin => exact pair_within _ _ two_le_maxBlock
    case rawFilled => exact pair_filled _ _
    case normFilled => exact pair_filled _ _
    all_goals rcases hp with rfl | rfl | rfl <;>
      simp [block, State.reset, Memory.wf, Memory.Within, Memory.Filled, framesFit, two_le_maxBlock]
  streams := by
    constructor <;> rcases hp with rfl | rfl | rfl <;> cases stereo <;>
      simp +contextual [block, State.reset, Phase.inBlock, Phase.afterCheck, State.cfgEnc]

/-! ### Witnesses -/

/-- A state with one turn planned. -/
def turn (t : Turn) (s : State) : State := { s with schedule := [t] }

theorem witness_HardwareResetActsAsSrst : (turn .reset State.reset).schedule = .reset :: [] := rfl

theorem witness_StartMovesIdleToCheck :
    State.reset.phase = .idle ∧ (filling none).phase ≠ .idle := by decide

/-- 0x30 and 0xFC have no register, 0x01 and 0x2F are misaligned, 0x2C is the last register. -/
theorem witness_RegWriteStoresOnlyInIdle :
    0x30 ≤ (0x30 : BitVec 8).toNat ∧ 0x30 ≤ (0xFC : BitVec 8).toNat ∧ (0x01 : BitVec 8).toNat % 4 ≠ 0 ∧
    (0x2F : BitVec 8).toNat % 4 ≠ 0 ∧ (0x2C : BitVec 8) ∈ [0x18, 0x1C, 0x20, 0x24, 0x28, 0x2C] ∧
    State.reset.phase = .idle ∧ (filling none).phase ≠ .idle := by decide

/-- Each test of CHECK fails first in one of these, and three configurations pass all. -/
theorem witness_CheckFaultsInOrderOrStartsTheRun :
    (checking 0x1F).cfgMod = 3 ∧
    ((checking 0x08).cfgMod ≠ 3 ∧ (checking 0x08).cfgEnc = 2) ∧
    ((checking 0x0E).cfgMod ≠ 3 ∧ (checking 0x0E).cfgEnc = 3) ∧
    ((checking 0x06).cfgMod ≠ 3 ∧ (checking 0x06).cfgEnc = 1 ∧ (checking 0x06).cfgNch = 0) ∧
    ((checking 0x30).cfgMod ≠ 3 ∧ (checking 0x30).cfgEnc = 0 ∧ (checking 0x30).cfgNch = 3) ∧
    ({ checking 0x10 with blksz := 0 } : State).blksz.toNat < 2 ∧
    ((checking 0x10).cfgMod = 0 ∧ (checking 0x11).cfgMod = 1 ∧ (checking 0x26).cfgMod = 2) ∧
    (checking 0x26).cfgEnc = 1 ∧ (checking 0x26).cfgNch = 2 ∧ (checking 0x26).blksz.toNat = 2 := by decide

/-- The least and, for the smallest MAX_BLOCK, the greatest block size that passes. -/
theorem witness_check_blocks_pass :
    (¬((2 : Word).toNat < 2 ∨ Config.maxBlock < (2 : Word).toNat)) ∧
    ¬((65536 : Word).toNat < 2 ∨ Config.maxBlock < (65536 : Word).toNat) := by
  have := reset_blksz_le_maxBlock
  constructor <;> simp <;> omega

theorem witness_DecInitConstructsTheDecoder :
    (checking 0x10).cfgMod = 0 ∧ (checking 0x11).cfgMod = 1 ∧ (checking 0x12).cfgMod = 2 ∧
    (checking 0x13).cfgMod = 3 := by decide

/-- The two ends of a fill, and each item and none one byte before a full block. -/
theorem witness_ReadBlockTakesOneItemOrEndsTheFill :
    (({ filling none with eos := true } : State).eos = true ∧ (filling none).n = 0) ∧
    (({ filling none with n := 2 } : State).n = (filling none).blksz) ∧
    ∀ x ∈ [none, some (.byte 0x80), some .eos, some .err],
      let s := { filling x with n := 1 }
      ¬(s.n = s.blksz ∨ s.eos = true) ∧ s.offered = x := by decide

/-- A full block, a short one and an empty one. -/
theorem witness_FillTakesABlockInOrder :
    StateInv (filling none) ∧ (filling none).phase = .read ∧ (filling none).n = 0 ∧
    (filling none).eos = false ∧ (filling none).offered = none ∧ (filling none).inEnded = false ∧
    [0x10, 0x20].length = (filling none).blksz.toNat ∧ [0x10].length < (filling none).blksz.toNat ∧
    ([] : List Byte).length < (filling none).blksz.toNat :=
  ⟨filling_inv none, by decide⟩

/-- The same fill with its plans: one byte, then EOS. -/
theorem witness_fill_with_plans :
    let s := { filling none with
      producerQ := [0x10].map .byte ++ [.eos], schedule := fillTurns ([0x10].length + 1) ++ [.host] }
    StateInv s ∧ s.schedule = [.producer, .core, .producer, .core, .core, .host] := by
  refine ⟨?_, rfl⟩
  have h := filling_inv none
  exact ⟨⟨h.1.1, h.1.2, h.1.3, h.1.4, h.1.5, h.1.6, h.1.7, h.1.8⟩,
    empty_buffers rfl rfl rfl rfl rfl rfl rfl rfl rfl rfl,
    ⟨h.3.1, h.3.2, h.3.3, h.3.4, h.3.5, h.3.6, h.3.7, h.3.8, h.3.9, h.3.10⟩⟩

/-- The last byte of a block, and the first entry beyond it. -/
theorem witness_NormU8NormalizesEveryByte :
    let s := block .norm false
    1 < s.n.toNat ∧ s.raw.read 1 = some 0xC0 ∧ s.n.toNat ≤ 2 := by decide

theorem witness_NormI16NormalizesEveryPair :
    let s := block .norm false
    0 < s.n.toNat / 2 ∧ s.raw.read 0 = some 0x80 ∧ s.raw.read 1 = some 0xC0 ∧ s.n.toNat / 2 ≤ 1 := by decide

/-- All premises but the response; `test_decode_mono_ignores_right` and `test_decode_faults` show decoders and
capacities for each of its clauses. -/
theorem witness_DecodeCallsTheDecoderOnce :
    (Instr.decodeAm, Mod.am) ∈ [(.decodeAm, .am), (.decodeWbfm, .wbfm), (.decodeNbfm, .nbfm)] ∧
    (block .decode true).dstate = some ⟨0⟩ ∧ [0x00000000, 0x3F000000].length = (block .decode true).ns.toNat ∧
    (block .decode true).cfgNch = 2 ∧ (block .decode false).cfgNch ≠ 2 ∧
    ∀ k, k < (block .decode true).ns.toNat →
      (block .decode true).norm.read k = ([0x00000000, 0x3F000000] : List F32)[k]? := by decide

/-- A response one frame too long, one without a right sequence, and one that passes. -/
theorem witness_decoder_responses :
    (∃ c, some 1 = some c ∧ c < (pass.decode .am ⟨0⟩ [0, 0] true).left.length) ∧
    (∀ right, (bad.decode .am ⟨0⟩ [0, 0] true).right = some right → right.length ≠ 2) ∧
    (¬∃ c, some 2 = some c ∧ c < (pass.decode .am ⟨0⟩ [0, 0] true).left.length) ∧
    ∃ right, (pass.decode .am ⟨0⟩ [0, 0] true).right = some right ∧ right.length = 2 := by
  refine ⟨⟨1, rfl, by decide⟩, ?_, ?_, _, rfl, rfl⟩
  · intro right h
    cases h
  · rintro ⟨c, hc, h⟩
    cases hc
    exact absurd h (by decide)

/-- A sample that is no NaN, and one that is. -/
theorem witness_EmitMonoStagesTheLeftWord (x : F32) :
    let s := emitting 0x10 [x] []
    (s.olen = 0 ∧ s.i < s.m ∧ s.audL.read s.i.toNat = some x) ∧ isNaN 0x3F800000 = false ∧ isNaN 0x7F800001 = true :=
  ⟨⟨rfl, Nat.one_pos, rfl⟩, by decide, by decide⟩

theorem witness_EmitStereoStagesLeftThenRight (x y : F32) :
    let s := emitting 0x20 [x] [y]
    (s.olen = 0 ∧ s.i < s.m ∧ s.audL.read s.i.toNat = some x ∧ s.audR.read s.i.toNat = some y) ∧
    isNaN 0x00000001 = false ∧ isNaN 0xFFFFFFFF = true :=
  ⟨⟨rfl, Nat.one_pos, rfl, rfl⟩, by decide, by decide⟩

/-- A staged mono frame whose byte `pos` the Consumer has answered so. -/
def writing (pos : BitVec 3) (a : Option OutAnswer) : State :=
  { emitting 0x10 [0x3F800000] [] with ost := [(0, 0xFF), (1, 0x7F)], olen := 2, opos := pos, answer := a }

/-- The first byte and the last, each waiting, accepted and refused. -/
theorem witness_EmitWritesOneStagedByte :
    ∀ a ∈ [none, some .accept, some .err],
      ((writing 0 a).opos < (writing 0 a).olen ∧ (writing 0 a).ost.read 0 = some 0xFF ∧
        (writing 0 a).answer = a ∧ (writing 0 a).opos + 1 ≠ (writing 0 a).olen) ∧
      ((writing 1 a).opos < (writing 1 a).olen ∧ (writing 1 a).ost.read 1 = some 0x7F ∧
        (writing 1 a).opos + 1 = (writing 1 a).olen) := by decide

theorem witness_EmitFinishesTheBlock :
    (block .emit false).olen = 0 ∧ (block .emit false).i = (block .emit false).m := by decide

theorem witness_QuantReturnsOneWord (x : F32) :
    (emitting 0x10 [x] []).audL.read (emitting 0x10 [x] []).i.toNat = some x ∧
    isNaN 0x80000001 = false ∧ isNaN 0xFF800001 = true := ⟨rfl, by decide, by decide⟩

/-- The greatest pattern that is no NaN, with an infinite product; a finite product; 1.0 and the values next to
1.0 and -1.0, where the clip begins. -/
theorem witness_QuantizerStaysInRangeAndClips :
    isNaN 0x7F800000 = false ∧ isInf (scaleSample 0x7F800000) = true ∧ isInf (scaleSample 0x42C80000) = false ∧
    (fLt (toF32 1) 0x3F800000 = false ∧ fLt 0x3F800000 (toF32 (-1)) = false) ∧
    (fLt (toF32 1) 0xBF800000 = false ∧ fLt 0xBF800000 (toF32 (-1)) = false) ∧
    fLt (toF32 1) 0x3F800001 = true ∧ fLt 0xBF800001 (toF32 (-1)) = true := by decide

/-- The smallest subnormals of both signs, and both zeros. -/
theorem witness_SquaredModeKeepsOnlyTheSign :
    fLt (toF32 0) 0x00000001 = true ∧ fLt 0x80000001 (toF32 0) = true ∧ fLt (toF32 0) 0x80000000 = false ∧
    isNaN 0x00000001 = false ∧ isNaN 0x80000001 = false ∧ isNaN 0x80000000 = false := by decide

/-- The vector Q15, whose product is rounded, beside the value just below the rounded one. -/
theorem witness_FiniteProductsAreNearest :
    (isNaN 0x38000100 = false ∧ isInf 0x38000100 = false) ∧ (isNaN 0x46FFFE00 = false ∧ isInf 0x46FFFE00 = false) ∧
    (isNaN 0x3F7FFFFF = false ∧ isInf 0x3F7FFFFF = false) := by decide

theorem witness_finite_product :
    fmul 0x38000100 0x46FFFE00 = 0x3F800000 ∧ isInf (fmul 0x38000100 0x46FFFE00) = false := by decide

/-- The mono block of one frame, and the state that its turns reach. -/
def monoRun : State :=
  { emitting 0x10 [0x3F800000] [] with
    consumerQ := [.accept, .accept], schedule := emitTurns 2 1 ++ [.host] }

def monoRunEnd : State :=
  { monoRun with
    consumerQ := [], schedule := [.host], phase := .read, i := 1, outcnt := 2, outBytes := [0xFF, 0x7F],
    ost := [(0, 0xFF), (1, 0x7F)], qword := 0x7FFF }

/-- A NaN, the two zeros, and an infinity beside the largest finite value. -/
theorem witness_ComparisonsFollowTheValues :
    isNaN 0x7F800001 = true ∧
    (isNaN 0x80000000 = false ∧ isInf 0x80000000 = false ∧ signedUnits 0x80000000 = signedUnits 0x00000000) ∧
    (isInf 0xFF800000 = true ∧ isNaN 0x7F7FFFFF = false ∧ isInf 0x7F7FFFFF = false) ∧
    isInf 0x7F800000 = true := by decide

/-- 1.0 converts to a finite value, and 1.0 and 2.0 are no NaN and no infinity. -/
theorem witness_ConvertedRealsAreNearest :
    isInf (realToF32 (1 : ℝ)) = false ∧ isNaN 0x40000000 = false ∧ isInf 0x40000000 = false := by
  have h : realToF32 (1 : ℝ) = toF32 1 := by simpa using realToF32_intCast (K := ℝ) 1
  rw [h]
  decide

/-- A mono block of one frame and a stereo block of two, with their plans. -/
theorem witness_EmittingABlockWritesItsFramesInOrder :
    (let s := monoRun
    s.phase = .emit ∧ s.cfgNch = 1 ∧ s.olen = 0 ∧ s.opos = 0 ∧ s.answer = none ∧ s.i ≤ s.m ∧
      s.frameBytes.toNat = 2 ∧ s.m.toNat - s.i.toNat = 1 ∧ s.frameSamples 0 = [0x3F800000] ∧ isNaN 0x3F800000 = false ∧
      s.schedule = [.core, .consumer, .core, .consumer, .core, .core, .host]) ∧
    (let s := emitting 0x20 [0x3F000000, 0xBF000000] [0xBF000000, 0x3F000000]
    s.cfgNch = 2 ∧ s.frameBytes.toNat = 4 ∧ s.m.toNat - s.i.toNat = 2 ∧ s.frameSamples 1 = [0xBF000000, 0x3F000000] ∧
      isNaN 0xBF000000 = false ∧ isNaN 0x3F000000 = false ∧ (emitTurns 4 2).length = 19) := by decide

theorem witness_emitting_runs : Sys2Proof.core.run (emitTurns 2 1).length monoRun = .next monoRunEnd := rfl

theorem witness_StepRunsTheDecodedOperation :
    (let s := { turn .host State.reset with hostQ := [0x11800000001] }
    s.schedule = .host :: [] ∧ s.hostQ = 0x11800000001 :: []) ∧
    ((filling none).phase.hasCoreStep = true ∧ decodeOsw (filling none).osw = .ok .readBlock ∧
      (filling none).schedule = [] ∧ (turn .core (filling none)).schedule = [.core]) := by decide

theorem witness_CoreHasNoStepOutsideARun :
    State.reset.phase = .idle ∧ ended.phase = .done ∧ faulted.phase = .fault ∧ ended.schedule = [] ∧
    (turn .core ended).schedule = .core :: [] := by decide

/-- A Core that waits and one that does not. -/
theorem witness_CoreWaitsOnlyAtTheTwoHandshakes :
    (StateInv (filling none) ∧ (filling none).phase.hasCoreStep = true ∧ (filling none).schedule = [] ∧
      step (filling none) = .next (filling none)) ∧
    (StateInv (block .norm true) ∧ (block .norm true).phase.hasCoreStep = true ∧
      (block .norm true).schedule = []) :=
  ⟨⟨filling_inv none, rfl, rfl, rfl⟩, block_inv _ _ (.inl rfl), rfl, rfl⟩

theorem witness_ProducerOffersInOrder :
    let s := { turn .producer (filling none) with producerQ := [.byte 0x80, .eos] }
    s.schedule = .producer :: [] ∧ s.offered = none ∧ s.inEnded = false ∧ s.producerQ = .byte 0x80 :: [.eos] ∧
    (filling (some .eos)).offered ≠ none ∧ (filling (some .eos)).inEnded = true ∧
    (filling none).producerQ = [] := by decide

theorem witness_ConsumerAnswersAnOfferedByte :
    let s := { turn .consumer (writing 1 none) with consumerQ := [.accept] }
    s.schedule = .consumer :: [] ∧ s.phase = .emit ∧ s.opos < s.olen ∧ s.answer = none ∧
    s.consumerQ = .accept :: [] ∧ (writing 1 (some .err)).answer ≠ none ∧ (filling none).phase ≠ .emit := by decide

/-- Each item taken: a byte, EOS, ERR. -/
theorem witness_InputIsTakenOnlyDuringAFill :
    (∀ x, StateInv (filling (some x))) ∧
    (∃ t, step (filling (some (.byte 0x80))) = .next t ∧ t.offered = none ∧ t.n = 1) ∧
    (∃ t, step (filling (some .eos)) = .next t ∧ t.offered = none ∧ t.eos = true) ∧
    (∃ t, step (filling (some .err)) = .next t ∧ t.offered = none ∧ t.err = .ioRd) :=
  ⟨fun x => filling_inv (some x), ⟨_, rfl, rfl, rfl⟩, ⟨_, rfl, rfl, rfl⟩, ⟨_, rfl, rfl, rfl⟩⟩

theorem witness_OutputGrowsByOneAcceptedByte :
    ∃ t, step (writing 1 (some .accept)) = .next t ∧ t.outBytes = [0x7F] ∧
      (writing 1 (some .accept)).outBytes = [] := ⟨_, rfl, rfl, rfl⟩

/-- A byte taken and a byte accepted; neither step resets. -/
theorem witness_CountersCountOnlyTheirEvents :
    (∃ t, step (filling (some (.byte 0x80))) = .next t ∧ ¬ResetValues t ∧ t.incnt = 1) ∧
    (∃ t, step (writing 1 (some .accept)) = .next t ∧ ¬ResetValues t ∧ t.outcnt = 1) ∧
    (∃ t, step { filling none with n := 2 } = .next t ∧ ¬ResetValues t ∧ t.lastn = 2) :=
  ⟨⟨_, rfl, fun h => absurd h.cfg (by decide), rfl⟩, ⟨_, rfl, fun h => absurd h.cfg (by decide), rfl⟩,
    ⟨_, rfl, fun h => absurd h.cfg (by decide), rfl⟩⟩

theorem emitting_registers (left right : List F32) :
    RegistersInv { emitting 0x10 left right with eos := true } := by
  constructor <;>
    simp [emitting, State.reset, Phase.isTerminal, Phase.afterCheck, State.configLegal, State.cfgMod, State.cfgEnc,
      State.cfgNch, reset_blksz_le_maxBlock]

/-- A NaN staged sets QNAN, and a step after it keeps it. -/
theorem witness_QnanIsStickyAndSetByNaNOnly :
    (∃ t, step { emitting 0x10 [0x7FC00000] [] with eos := true } = .next t ∧ t.qnan = true ∧
      RegistersInv { emitting 0x10 [0x7FC00000] [] with eos := true }) ∧
    ∃ s t, RegistersInv s ∧ s.qnan = true ∧ step s = .next t ∧ t.qnan = true := by
  refine ⟨⟨_, rfl, rfl, emitting_registers _ _⟩, { emitting 0x10 [] [] with eos := true, qnan := true }, _, ?_, rfl,
    rfl, rfl⟩
  have h := emitting_registers [] []
  exact ⟨h.1, h.2, h.3, h.4, h.5, h.6, h.7, h.8⟩

theorem witness_ConfigurationIsFrozenDuringARun :
    ∃ t, step { turn .host (filling none) with hostQ := [0x10000000064] } = .next t ∧
      (filling none).phase ≠ .idle ∧ t.phase ≠ .idle ∧ t.cfg = 0x10 := ⟨_, rfl, by decide, by decide, rfl⟩

theorem witness_PhaseFollowsTheLoop :
    ∃ t, step { filling none with n := 2 } = .next t ∧ t.phase = .norm ∧ (filling none).phase = .read :=
  ⟨_, rfl, rfl, rfl⟩

/-- Faults in CHECK, READ and EMIT. -/
theorem witness_FaultsArePrecise :
    (∃ t, step (checking 0x17) = .next t ∧ t.phase = .fault ∧ t.err = .cfgMod) ∧
    (∃ t, step (filling (some .err)) = .next t ∧ t.phase = .fault ∧ t.err = .ioRd) ∧
    ∃ t, step (writing 0 (some .err)) = .next t ∧ t.phase = .fault ∧ t.err = .ioWr :=
  ⟨⟨_, rfl, rfl, rfl⟩, ⟨_, rfl, rfl, rfl⟩, ⟨_, rfl, rfl, rfl⟩⟩

theorem witness_OnlyResetLeavesDoneAndFault : ended.phase = .done ∧ faulted.phase = .fault := ⟨rfl, rfl⟩

/-- CHECK passes and constructs the decoder. -/
theorem checking_step : ∃ t, step (checking 0x10) = .next t ∧
    t.dstate = some (Config.decoder.init .am (checking 0x10).initParams) ∧ t.phase = .read := ⟨_, rfl, rfl, rfl⟩

theorem witness_DecoderStateChangesOnlyInCheckAndDecode :
    StateInv (checking 0x10) ∧ ∃ t, step (checking 0x10) = .next t ∧ t.dstate ≠ (checking 0x10).dstate := by
  obtain ⟨t, h, hd, -⟩ := checking_step
  exact ⟨checking_inv, t, h, by rw [hd]; exact Option.some_ne_none _⟩

theorem witness_EveryStepKeepsTheInvariant :
    ∃ t, step (block .norm false) = .next t ∧ StateInv (block .norm false) ∧ t.phase = .decode :=
  ⟨_, rfl, block_inv _ _ (.inl rfl), rfl⟩

theorem witness_NoReachableStateStops :
    (∀ stereo, StateInv (block .norm stereo) ∧ StateInv (block .decode stereo) ∧ StateInv (block .emit stereo)) ∧
    (block .emit true).phase.hasCoreStep = true :=
  ⟨fun b => ⟨block_inv _ b (.inl rfl), block_inv _ b (.inr (.inl rfl)), block_inv _ b (.inr (.inr rfl))⟩, rfl⟩

/-- The two states differ in RAW[2], beyond N, and in AUD_R. -/
theorem witness_EntriesBeyondTheCountsAreNeverRead :
    let s := block .norm true
    let s' := { s with raw := s.raw ++ [(2, 0x55)], audR := [(0, 0x3F800000)] }
    StateInv s ∧ AgreeOnValid s s' ∧ s ≠ s' ∧ ∃ t, step s = .next t ∧ t.phase = .decode := by
  refine ⟨block_inv _ _ (.inl rfl), ⟨rfl, ?_, fun _ _ => rfl, fun _ _ => rfl, ?_, fun _ _ => rfl⟩, by decide, _, rfl, rfl⟩
  · intro k hk
    have hk : k < 2 := hk
    interval_cases k <;> rfl
  · intro h; cases h

theorem witness_MonoRunsIgnoreTheRightChannel :
    (emitting 0x10 [0x3E800000] [0x7FC00000]).stereo = false ∧
    ∃ t, exec .emitMono (emitting 0x10 [0x3E800000] [0x7FC00000]) = .next t ∧ t.qnan = false :=
  ⟨by decide, _, rfl, rfl⟩

theorem witness_RunsWithoutNaNDoNotDependOnDraws :
    .reset ∉ monoRun.schedule ∧ (∀ w ∈ monoRun.hostQ, decodeBus w ≠ .srst) ∧
    Sys2Proof.core.run (emitTurns 2 1).length monoRun = .next monoRunEnd ∧ monoRunEnd.qnan = false :=
  ⟨by decide, fun w h => absurd h List.not_mem_nil, witness_emitting_runs, rfl⟩

theorem witness_ExitStatusIsSuccessExactlyInDone :
    StateInv ended ∧ ended.exitStatus = some true ∧ StateInv faulted ∧ faulted.exitStatus = some false :=
  ⟨ended_inv, rfl, faulted_inv, rfl⟩

/-- P5: the reset configuration on empty input, run to DONE. -/
def emptyRun : State :=
  State.planned [.host, .core, .producer, .core, .core] [0x11800000001] [] [] []

theorem emptyRun_ends : ∃ t, Sys2Proof.core.run 5 emptyRun = .next t ∧ t.phase = .done ∧ t.qnan = false ∧
    t.statusWord = 0x16 ∧ t.outBytes = [] := ⟨_, rfl, rfl, rfl, rfl, rfl⟩

theorem emptyRun_noReset : noReset [.host, .core, .producer, .core, .core] [0x11800000001] := by
  refine ⟨by decide, fun w h => ?_⟩
  rw [List.mem_singleton.mp h]
  decide

theorem witness_RunsReachingDoneCountTheirInput :
    noReset [.host, .core, .producer, .core, .core] [0x11800000001] ∧
    ∃ t, Sys2Proof.core.run 5 emptyRun = .next t ∧ t.phase = .done := by
  obtain ⟨t, h, hp, -⟩ := emptyRun_ends
  exact ⟨emptyRun_noReset, t, h, hp⟩

theorem witness_OutputIsTheFunctionOfItsInput :
    noReset [.host, .core, .producer, .core, .core] [0x11800000001] ∧
    ∃ t, Sys2Proof.core.run 5 emptyRun = .next t ∧ t.phase = .done ∧ t.qnan = false := by
  obtain ⟨t, h, hp, hq, -⟩ := emptyRun_ends
  exact ⟨emptyRun_noReset, t, h, hp, hq⟩

/-- The bytes of P1 with the decoder PASS: two blocks, of four bytes and of one. -/
theorem test_output_of_P1 :
    outputOf pass .am false false false ⟨0⟩ (blocksOf 4 [0x00, 0x80, 0xFF, 0x40, 0xC0]) =
      [0x01, 0x80, 0x00, 0x00, 0xFF, 0x7E, 0x01, 0xC0, 0xFF, 0x3F] := by decide

/-- The bytes of P2 with the decoder PASS: an odd last byte is dropped. -/
theorem test_output_of_P2 :
    outputOf pass .am true true true ⟨0⟩ (blocksOf 4 [0x00, 0x40, 0x00, 0x00, 0x01]) =
      [0xFF, 0x7F, 0x01, 0x80, 0x00, 0x00, 0x00, 0x00] := by decide

theorem witness_DecodeOfEncodeIsTheOperation :
    Instr.wellFormed (.regWr 0xFF 0xFFFFFFFF) = true ∧ Instr.wellFormed .quantSq = true := by decide

/-- A BUS value of each row, and an OSW value. -/
theorem witness_DecodedWordsMatchTheirRow :
    decode (.osw 0x507F) = .ok .quantSq ∧ decode (.bus 0x11800000003) = .ok .srst ∧
    (Instr.srst.matchesRow (.bus 0x11800000001) = false ∧ Instr.start.matchesRow (.bus 0x11800000001) = true) ∧
    (Instr.start.matchesRow (.bus 0x1FFFFFFFFFF) = false ∧ (0x1FFFFFFFFFF : BusWord).getLsbD 40 = true) ∧
    (0x0FFFFFFFFFF : BusWord).getLsbD 40 = false := by decide

theorem witness_ProgramLinesNameTheirOperations :
    (0xFFFFFFFC : Word).getLsbD 0 = false ∧ (0xFFFFFFFC : Word).getLsbD 1 = false ∧ (3 : Nat) < 4 ∧ (1 : Nat) < 2 := by
  decide

end Sys2Proof.Tests
end

/-! PROOFS. The magnitudes of binary32 as an increasing function of their 31 bits, and the rounding to the nearest of
them (spec/00_scope.md R12). A rounding is proved nearest once, of `realBits`; the product and the conversion of a real
are two uses of it, and the comparisons use only the order of the magnitudes. -/

namespace Sys2Proof.Machine

/-! ### Magnitudes -/

/-- The magnitude in units of 2^-149 that 31 bits stand for, continued over all natural numbers, so that an infinity is
one step past the largest finite value and the carry of a rounding needs no case of its own. -/
def unitsOf (bits : Nat) : Nat :=
  if bits / 2 ^ 23 = 0 then bits % 2 ^ 23 else (2 ^ 23 + bits % 2 ^ 23) * 2 ^ (bits / 2 ^ 23 - 1)

theorem magOf_eq_unitsOf (x : F32) : magOf x = unitsOf (magBits x) := rfl

theorem unitsOf_of_subnormal {f : Nat} (h : f < 2 ^ 23) : unitsOf f = f := by
  rw [unitsOf, Nat.div_eq_of_lt h, Nat.mod_eq_of_lt h, if_pos rfl]

theorem unitsOf_of_normal {e f : Nat} (h : f < 2 ^ 23) : unitsOf ((e + 1) * 2 ^ 23 + f) = (2 ^ 23 + f) * 2 ^ e := by
  have hdiv : ((e + 1) * 2 ^ 23 + f) / 2 ^ 23 = e + 1 := by omega
  have hmod : ((e + 1) * 2 ^ 23 + f) % 2 ^ 23 = f := by omega
  rw [unitsOf, hdiv, hmod, if_neg e.succ_ne_zero, Nat.add_sub_cancel]

/-- A significand `k` at the exponent `e`: subnormal only at `e = 0`, and `k = 2 ^ 24` is the carry into `e + 1`. -/
theorem unitsOf_scaled {e k : Nat} (hlo : e = 0 ∨ 2 ^ 23 ≤ k) (hhi : k ≤ 2 ^ 24) :
    unitsOf (e * 2 ^ 23 + k) = k * 2 ^ e := by
  obtain hsub | ⟨f, rfl, hf⟩ | rfl : k < 2 ^ 23 ∨ (∃ f, k = 2 ^ 23 + f ∧ f < 2 ^ 23) ∨ k = 2 ^ 24 := by
    by_cases hsub : k < 2 ^ 23
    · exact .inl hsub
    · by_cases hcarry : k = 2 ^ 24
      · exact .inr (.inr hcarry)
      · exact .inr (.inl ⟨k - 2 ^ 23, by omega, by omega⟩)
  · obtain rfl : e = 0 := hlo.resolve_right (by omega)
    rw [Nat.zero_mul, Nat.zero_add, unitsOf_of_subnormal hsub, Nat.pow_zero, Nat.mul_one]
  · rw [show e * 2 ^ 23 + (2 ^ 23 + f) = (e + 1) * 2 ^ 23 + f by omega, unitsOf_of_normal hf]
  · have hnext := unitsOf_of_normal (e := e + 1) (f := 0) (by omega)
    rw [show e * 2 ^ 23 + 2 ^ 24 = (e + 1 + 1) * 2 ^ 23 + 0 by omega, hnext, Nat.pow_succ]
    omega

/-- Every magnitude is a significand below `2 ^ 24` at an exponent. -/
theorem exists_scaled (n : Nat) : ∃ e k, n = e * 2 ^ 23 + k ∧ (e = 0 ∨ 2 ^ 23 ≤ k) ∧ k < 2 ^ 24 := by
  by_cases h : n < 2 ^ 23
  · exact ⟨0, n, by omega, .inl rfl, by omega⟩
  · exact ⟨n / 2 ^ 23 - 1, n % 2 ^ 23 + 2 ^ 23, by omega, .inr (by omega), by omega⟩

theorem unitsOf_strictMono : StrictMono unitsOf := by
  refine strictMono_nat_of_lt_succ fun n => ?_
  obtain ⟨e, k, rfl, hlo, hhi⟩ := exists_scaled n
  rw [Nat.add_assoc, unitsOf_scaled hlo hhi.le, unitsOf_scaled (hlo.imp_right Nat.le_succ_of_le) hhi]
  exact Nat.mul_lt_mul_of_pos_right k.lt_succ_self (Nat.two_pow_pos e)

/-- From the least normal magnitude of an exponent on, all magnitudes are whole multiples of its step. -/
theorem pow_dvd_unitsOf {e n : Nat} (h : 2 ^ 23 * 2 ^ e ≤ unitsOf n) : 2 ^ e ∣ unitsOf n := by
  obtain ⟨e', k, rfl, hlo, hhi⟩ := exists_scaled n
  rw [unitsOf_scaled hlo hhi.le] at h ⊢
  refine Dvd.dvd.mul_left (Nat.pow_dvd_pow 2 ?_) k
  by_contra hlt
  have hstep : 2 ^ (e' + 1) ≤ 2 ^ e := Nat.pow_le_pow_right Nat.two_pos (by omega)
  have hk : k * 2 ^ e' < 2 ^ 24 * 2 ^ e' := Nat.mul_lt_mul_of_pos_right hhi (Nat.two_pow_pos e')
  rw [Nat.pow_succ] at hstep
  omega

/-! ### Patterns -/

theorem toNat_signed (neg : Bool) {bits : Nat} (h : bits < 2 ^ 31) :
    (signed neg bits).toNat = neg.toNat * 2 ^ 31 + bits := by
  rw [signed, BitVec.toNat_ofNat]
  cases neg <;> simp <;> omega

theorem magBits_signed (neg : Bool) {bits : Nat} (h : bits < 2 ^ 31) : magBits (signed neg bits) = bits := by
  rw [magBits, toNat_signed neg h]
  omega

theorem signOf_signed (neg : Bool) {bits : Nat} (h : bits < 2 ^ 31) : signOf (signed neg bits) = neg := by
  have hdiv : (neg.toNat * 2 ^ 31 + bits) / 2 ^ 31 = neg.toNat := by omega
  rw [signOf, BitVec.getLsbD, toNat_signed neg h, Nat.testBit_eq_decide_div_mod_eq, hdiv]
  cases neg <;> rfl

theorem isNaN_eq_false_iff (x : F32) : isNaN x = false ↔ magBits x ≤ infBits := by
  simp [isNaN]

theorem isInf_iff (x : F32) : isInf x = true ↔ magBits x = infBits := by
  simp [isInf]

theorem isInf_eq_false_iff (x : F32) : isInf x = false ↔ magBits x ≠ infBits := by
  simp [isInf]

/-! ### The nearest natural number, ties to even -/

theorem abs_nearestNat_sub_le {y : ℝ} (hy : 0 ≤ y) : |(nearestNat y : ℝ) - y| ≤ 1 / 2 := by
  have hle := Nat.floor_le hy
  have hlt := Nat.lt_floor_add_one y
  rw [abs_sub_le_iff]
  simp only [nearestNat]
  split_ifs with hup
  · have hhalf : 1 ≤ 2 * (y - ⌊y⌋₊) := hup.elim le_of_lt fun h => h.1.ge
    push_cast
    constructor <;> linarith
  · have hdown : ¬1 < 2 * (y - ⌊y⌋₊) := fun h => hup (.inl h)
    constructor <;> linarith

theorem nearestNat_even_of_tie {y : ℝ} (hy : 0 ≤ y) (htie : |(nearestNat y : ℝ) - y| = 1 / 2) :
    nearestNat y % 2 = 0 := by
  have hle := Nat.floor_le hy
  have hlt := Nat.lt_floor_add_one y
  revert htie
  simp only [nearestNat]
  split_ifs with hup <;> intro htie
  · have hhalf : 2 * (y - ⌊y⌋₊) = 1 := by
      push_cast at htie
      rw [abs_of_pos (by linarith)] at htie
      linarith
    obtain h | ⟨-, hodd⟩ := hup
    · exact absurd hhalf h.ne'
    · omega
  · have hhalf : 2 * (y - ⌊y⌋₊) = 1 := by
      rw [abs_of_nonpos (by linarith)] at htie
      linarith
    have hodd : ¬⌊y⌋₊ % 2 = 1 := fun h => hup (.inr ⟨hhalf, h⟩)
    omega

/-- An even number is reached by rounding up from halfway below it on, because a tie goes to it. -/
theorem le_nearestNat_iff {y : ℝ} (hy : 0 ≤ y) {n : Nat} (hn : n % 2 = 0) :
    n ≤ nearestNat y ↔ (n : ℝ) ≤ y + 1 / 2 := by
  obtain ⟨hhi, hlo⟩ := abs_sub_le_iff.mp (abs_nearestNat_sub_le hy)
  constructor
  · intro h
    have : (n : ℝ) ≤ nearestNat y := Nat.cast_le.mpr h
    linarith
  · intro h
    by_contra hlt
    have hcast : (nearestNat y : ℝ) + 1 ≤ n := by exact_mod_cast not_le.mp hlt
    have htie : |(nearestNat y : ℝ) - y| = 1 / 2 := by
      rw [abs_of_nonpos] <;> linarith
    have hnext : n = nearestNat y + 1 := by
      have : (n : ℝ) < nearestNat y + 2 := by linarith
      have : n < nearestNat y + 2 := by exact_mod_cast this
      omega
    have := nearestNat_even_of_tie hy htie
    omega

theorem nearestNat_le {y : ℝ} (hy : 0 ≤ y) {n : Nat} (h : y ≤ n) : nearestNat y ≤ n := by
  obtain ⟨hhi, -⟩ := abs_sub_le_iff.mp (abs_nearestNat_sub_le hy)
  have : (nearestNat y : ℝ) < n + 1 := by linarith
  exact Nat.lt_succ_iff.mp (by exact_mod_cast this)

/-- Of the values `val` of two numbers, that of `n` is no farther from `u` than that of `m`, and `n` is even if both are
equally near. -/
def NoFarther (val : Nat → Nat) (u : ℝ) (n m : Nat) : Prop :=
  |(val n : ℝ) - u| ≤ |(val m : ℝ) - u| ∧ (|(val n : ℝ) - u| = |(val m : ℝ) - u| → n ≠ m → n % 2 = 0)

theorem noFarther_of_lt {val : Nat → Nat} {u : ℝ} {n m : Nat} (h : |(val n : ℝ) - u| < |(val m : ℝ) - u|) :
    NoFarther val u n m :=
  ⟨h.le, fun heq => absurd heq h.ne⟩

/-- Two different natural numbers are at least 1 apart, so one of them is at least half away from `y`. -/
theorem nearestNat_noFarther {y : ℝ} (hy : 0 ≤ y) (j : Nat) : NoFarther id y (nearestNat y) j := by
  have hnear := abs_nearestNat_sub_le hy
  by_cases hj : nearestNat y = j
  · exact ⟨by rw [hj], fun _ hne => absurd hj hne⟩
  · have hapart : (1 : ℝ) ≤ |(nearestNat y : ℝ) - j| := by
      have : (1 : ℤ) ≤ |(nearestNat y : ℤ) - j| := Int.one_le_abs (by omega)
      exact_mod_cast this
    have htriangle := abs_sub_le (nearestNat y : ℝ) y j
    rw [abs_sub_comm y] at htriangle
    refine ⟨?_, fun heq _ => nearestNat_even_of_tie hy ?_⟩ <;> simp only [id] at * <;> linarith

/-! ### The nearest magnitude, ties to even -/

/-- `realBits` rounds at the exponent where the units of a significand are those of the result. -/
theorem exists_exponent {u : ℝ} (hu : 0 ≤ u) :
    ∃ e, (e = 0 ∨ 2 ^ 23 * 2 ^ e ≤ u) ∧ u < 2 ^ 24 * 2 ^ e ∧
      realBits u = min (e * 2 ^ 23 + nearestNat (u / 2 ^ e)) infBits := by
  refine ⟨Nat.log2 ⌊u⌋₊ - 23, ?_, ?_, rfl⟩
  · by_cases h : Nat.log2 ⌊u⌋₊ ≤ 23
    · exact .inl (by omega)
    · have hfloor : ⌊u⌋₊ ≠ 0 := by
        intro h0
        simp [h0] at h
      have hle : ((2 ^ Nat.log2 ⌊u⌋₊ : Nat) : ℝ) ≤ u := (Nat.le_floor_iff hu).mp (Nat.log2_self_le hfloor)
      right
      rw [← pow_add, show 23 + (Nat.log2 ⌊u⌋₊ - 23) = Nat.log2 ⌊u⌋₊ by omega]
      exact_mod_cast hle
  · have hlt : u < ((2 ^ (Nat.log2 ⌊u⌋₊ + 1) : Nat) : ℝ) := (Nat.floor_lt hu).mp Nat.lt_log2_self
    rw [← pow_add]
    push_cast at hlt
    exact hlt.trans_le (pow_le_pow_right₀ one_le_two (by omega))

section Exponent

variable {u : ℝ} {e : Nat}

theorem significand_lower (hu : 0 ≤ u) (hlo : e = 0 ∨ 2 ^ 23 * 2 ^ e ≤ u) :
    e = 0 ∨ 2 ^ 23 ≤ nearestNat (u / 2 ^ e) := by
  refine hlo.imp_right fun h => (le_nearestNat_iff (by positivity) (by norm_num)).mpr ?_
  have : (2 : ℝ) ^ 23 ≤ u / 2 ^ e := (le_div_iff₀ (by positivity)).mpr h
  push_cast
  linarith

theorem significand_upper (hu : 0 ≤ u) (hhi : u < 2 ^ 24 * 2 ^ e) : nearestNat (u / 2 ^ e) ≤ 2 ^ 24 := by
  have h : u / 2 ^ e < 2 ^ 24 := (div_lt_iff₀ (by positivity)).mpr hhi
  exact nearestNat_le (by positivity) (by exact_mod_cast h.le)

theorem abs_scaled_sub (k : Nat) (u : ℝ) (e : Nat) :
    |((k * 2 ^ e : Nat) : ℝ) - u| = |(k : ℝ) - u / 2 ^ e| * 2 ^ e := by
  have hpos : (0 : ℝ) < 2 ^ e := by positivity
  rw [← abs_of_pos hpos, ← abs_mul, abs_of_pos hpos, sub_mul, div_mul_cancel₀ _ hpos.ne']
  push_cast
  rfl

/-- Among the multiples of the step of the exponent the rounded one is the nearest, because its significand is. -/
theorem rounded_noFarther_of_dvd (hu : 0 ≤ u) (hlo : e = 0 ∨ 2 ^ 23 * 2 ^ e ≤ u) (hhi : u < 2 ^ 24 * 2 ^ e) {m : Nat}
    (hm : 2 ^ e ∣ unitsOf m) : NoFarther unitsOf u (e * 2 ^ 23 + nearestNat (u / 2 ^ e)) m := by
  obtain ⟨j, hj⟩ := hm
  have hn : unitsOf (e * 2 ^ 23 + nearestNat (u / 2 ^ e)) = nearestNat (u / 2 ^ e) * 2 ^ e :=
    unitsOf_scaled (significand_lower hu hlo) (significand_upper hu hhi)
  obtain ⟨hle, htie⟩ := nearestNat_noFarther (y := u / 2 ^ e) (by positivity) j
  rw [Nat.mul_comm] at hj
  simp only [NoFarther, hn, hj, abs_scaled_sub, id] at hle htie ⊢
  refine ⟨by gcongr, fun heq hne => ?_⟩
  have hsig := htie (mul_right_cancel₀ (by positivity) heq) fun hk =>
    hne (unitsOf_strictMono.injective (by rw [hn, hj, hk]))
  omega

/-- A magnitude that is no multiple of the step lies below the least normal magnitude of the exponent, which is a
nearer multiple. -/
theorem rounded_noFarther (hu : 0 ≤ u) (hlo : e = 0 ∨ 2 ^ 23 * 2 ^ e ≤ u) (hhi : u < 2 ^ 24 * 2 ^ e) (m : Nat) :
    NoFarther unitsOf u (e * 2 ^ 23 + nearestNat (u / 2 ^ e)) m := by
  by_cases hm : 2 ^ e ∣ unitsOf m
  · exact rounded_noFarther_of_dvd hu hlo hhi hm
  · have hleast : unitsOf (e * 2 ^ 23 + 2 ^ 23) = 2 ^ 23 * 2 ^ e := unitsOf_scaled (.inr le_rfl) (by norm_num)
    have hu' : (2 ^ 23 * 2 ^ e : ℝ) ≤ u := hlo.resolve_left fun h => hm (by simp [h])
    have hbelow : (unitsOf m : ℝ) < 2 ^ 23 * 2 ^ e := by
      exact_mod_cast not_le.mp (mt pow_dvd_unitsOf hm)
    obtain ⟨hle, -⟩ := rounded_noFarther_of_dvd hu hlo hhi (m := e * 2 ^ 23 + 2 ^ 23) (hleast ▸ Dvd.intro_left _ rfl)
    refine noFarther_of_lt (hle.trans_lt ?_)
    rw [hleast]
    push_cast
    rw [abs_of_nonpos (by linarith), abs_of_neg (by linarith)]
    linarith

/-- The rounded value leaves the finite range from halfway past the largest finite value on, which has an odd
significand. -/
theorem infBits_le_rounded_iff (hu : 0 ≤ u) (hlo : e = 0 ∨ 2 ^ 23 * 2 ^ e ≤ u) (hhi : u < 2 ^ 24 * 2 ^ e) :
    infBits ≤ e * 2 ^ 23 + nearestNat (u / 2 ^ e) ↔ (2 ^ 25 - 1) * 2 ^ 252 ≤ u := by
  have hklo := significand_lower hu hlo
  have hkhi := significand_upper hu hhi
  have hinf : infBits = 255 * 2 ^ 23 := rfl
  obtain hlt | rfl | hgt := lt_trichotomy e 253
  · have hstep : (2 : ℝ) ^ e ≤ 2 ^ 252 := pow_le_pow_right₀ one_le_two (by omega)
    exact iff_of_false (by omega) (by linarith)
  · have hsig : infBits ≤ 253 * 2 ^ 23 + nearestNat (u / 2 ^ 253) ↔ 2 ^ 24 ≤ nearestNat (u / 2 ^ 253) := by omega
    have hstep : (2 : ℝ) ^ 253 = 2 * 2 ^ 252 := by rw [pow_succ, mul_comm]
    rw [hsig, le_nearestNat_iff (by positivity) (by norm_num), ← sub_le_iff_le_add, le_div_iff₀ (by positivity), hstep]
    push_cast
    constructor <;> intro h <;> linarith
  · have hstep : (2 : ℝ) ^ 254 ≤ 2 ^ e := pow_le_pow_right₀ one_le_two hgt
    rw [show (254 : Nat) = 252 + 2 from rfl, pow_add] at hstep
    have hu' : 2 ^ 23 * 2 ^ e ≤ u := hlo.resolve_left (by omega)
    exact iff_of_true (by omega) (by linarith)

end Exponent

theorem realBits_le_infBits (u : ℝ) : realBits u ≤ infBits := min_le_right _ _

theorem realBits_eq_infBits_iff {u : ℝ} (hu : 0 ≤ u) : realBits u = infBits ↔ (2 ^ 25 - 1) * 2 ^ 252 ≤ u := by
  obtain ⟨e, hlo, hhi, heq⟩ := exists_exponent hu
  rw [heq, min_eq_right_iff, infBits_le_rounded_iff hu hlo hhi]

/-- A result that is no infinity is the nearest of all magnitudes. -/
theorem realBits_noFarther {u : ℝ} (hu : 0 ≤ u) (hfin : realBits u ≠ infBits) (m : Nat) :
    NoFarther unitsOf u (realBits u) m := by
  obtain ⟨e, hlo, hhi, heq⟩ := exists_exponent hu
  rw [heq] at hfin ⊢
  rw [min_eq_left (le_of_not_ge (mt min_eq_right hfin))]
  exact rounded_noFarther hu hlo hhi m

/-! ### The pattern of a rounded value -/

theorem realBits_lt (u : ℝ) : realBits u < 2 ^ 31 :=
  (realBits_le_infBits u).trans_lt (by decide)

@[simp] theorem magBits_signed_realBits (neg : Bool) (u : ℝ) : magBits (signed neg (realBits u)) = realBits u :=
  magBits_signed neg (realBits_lt u)

@[simp] theorem signOf_signed_realBits (neg : Bool) (u : ℝ) : signOf (signed neg (realBits u)) = neg :=
  signOf_signed neg (realBits_lt u)

@[simp] theorem isNaN_signed_realBits (neg : Bool) (u : ℝ) : isNaN (signed neg (realBits u)) = false := by
  rw [isNaN_eq_false_iff, magBits_signed_realBits]
  exact realBits_le_infBits u

theorem unitsPerOne_pos : 0 < unitsPerOne := Nat.two_pow_pos 149

theorem cast_unitsPerOne_pos : (0 : ℝ) < unitsPerOne := Nat.cast_pos.mpr unitsPerOne_pos

/-- A rounded quotient is the rounded real. -/
theorem roundRatio_eq_signed_realBits (neg : Bool) (num : Nat) {den : Nat} (hd : 0 < den) :
    roundRatio neg num den = signed neg (realBits ((num : ℝ) / den)) := by
  rw [roundRatio, realBits_div num den hd]

theorem fmul_of_finite {a b : F32} (ha : isNaN a = false) (hb : isNaN b = false) (ha' : isInf a = false)
    (hb' : isInf b = false) :
    fmul a b = signed (signOf a ^^ signOf b) (realBits (((magOf a * magOf b : Nat) : ℝ) / unitsPerOne)) := by
  rw [← roundRatio_eq_signed_realBits _ _ unitsPerOne_pos]
  simp [fmul, ha, hb, ha', hb']

/-! ### The order of the values -/

/-- The order of the patterns is that of the values, because the magnitudes increase with their bits from 0 on. -/
theorem orderKey_lt_iff (a b : F32) : orderKey a < orderKey b ↔ signedUnits a < signedUnits b := by
  have hmono {m n : Nat} : unitsOf m < unitsOf n ↔ m < n := unitsOf_strictMono.lt_iff_lt
  have hpos {n : Nat} : 0 < unitsOf n ↔ 0 < n := hmono (m := 0)
  have hab := hmono (m := magBits a) (n := magBits b)
  have hba := hmono (m := magBits b) (n := magBits a)
  have ha := hpos (n := magBits a)
  have hb := hpos (n := magBits b)
  simp only [orderKey, signedUnits, magOf_eq_unitsOf]
  split <;> split <;> omega

theorem orderKey_eq_iff (a b : F32) : orderKey a = orderKey b ↔ signedUnits a = signedUnits b := by
  have hab := orderKey_lt_iff a b
  have hba := orderKey_lt_iff b a
  omega

theorem magBits_lt_of_finite {x : F32} (hn : isNaN x = false) (hi : isInf x = false) : magBits x < infBits :=
  lt_of_le_of_ne ((isNaN_eq_false_iff x).mp hn) ((isInf_eq_false_iff x).mp hi)

theorem isNaN_of_isInf {x : F32} (h : isInf x = true) : isNaN x = false :=
  (isNaN_eq_false_iff x).mpr ((isInf_iff x).mp h).le

theorem fLt_of_not_isNaN {a b : F32} (ha : isNaN a = false) (hb : isNaN b = false) :
    fLt a b = decide (orderKey a < orderKey b) := by
  simp [fLt, ha, hb]

theorem fEq_of_not_isNaN {a b : F32} (ha : isNaN a = false) (hb : isNaN b = false) :
    fEq a b = decide (orderKey a = orderKey b) := by
  simp [fEq, ha, hb]

/-- An infinity is at one end of the order. -/
theorem orderKey_of_isInf {x : F32} (h : isInf x = true) :
    orderKey x = if signOf x then -(infBits : Int) else infBits := by
  rw [orderKey, (isInf_iff x).mp h]

theorem orderKey_of_finite {x : F32} (hn : isNaN x = false) (hi : isInf x = false) :
    -(infBits : Int) < orderKey x ∧ orderKey x < infBits := by
  have h := magBits_lt_of_finite hn hi
  rw [orderKey]
  split <;> omega

theorem comparisons_with_nan {a b : F32} (h : isNaN a = true ∨ isNaN b = true) :
    fLt a b = false ∧ fLt b a = false ∧ fEq a b = false := by
  rcases h with h | h <;> simp [fLt, fEq, h]

theorem comparisons_of_infinity_with_finite {a b : F32} (ha : isInf a = true) (hb : isNaN b = false)
    (hb' : isInf b = false) : fLt a b = signOf a ∧ fLt b a = !signOf a ∧ fEq a b = false := by
  obtain ⟨hlo, hhi⟩ := orderKey_of_finite hb hb'
  have hn := isNaN_of_isInf ha
  rw [fLt_of_not_isNaN hn hb, fLt_of_not_isNaN hb hn, fEq_of_not_isNaN hn hb, orderKey_of_isInf ha]
  cases signOf a <;> simp <;> omega

theorem comparisons_of_infinities {a b : F32} (ha : isInf a = true) (hb : isInf b = true) :
    fLt a b = (signOf a && !signOf b) ∧ fEq a b = decide (signOf a = signOf b) := by
  rw [fLt_of_not_isNaN (isNaN_of_isInf ha) (isNaN_of_isInf hb),
    fEq_of_not_isNaN (isNaN_of_isInf ha) (isNaN_of_isInf hb), orderKey_of_isInf ha, orderKey_of_isInf hb]
  cases signOf a <;> cases signOf b <;> decide

/-! ### The statements -/

/-- Distances in units of 2^-298 are those in units of 2^-149, scaled. -/
theorem natAbs_scaled_sub (m num : Nat) :
    ((((m * unitsPerOne : Nat) - num : Int).natAbs : Nat) : ℝ) = |(m : ℝ) - (num : ℝ) / unitsPerOne| * unitsPerOne := by
  rw [Nat.cast_natAbs, ← abs_of_pos cast_unitsPerOne_pos, ← abs_mul, abs_of_pos cast_unitsPerOne_pos, sub_mul,
    div_mul_cancel₀ _ cast_unitsPerOne_pos.ne']
  push_cast
  rfl

/-- Settles O23: the product is one rounding of the exact product, and a rounding is the nearest magnitude. -/
theorem finiteProductsAreNearest : Obligations.FiniteProductsAreNearest := by
  unfold Obligations.FiniteProductsAreNearest
  intro a b ha hb ha' hb' y hy
  have hmul : y = _ := fmul_of_finite ha hb ha' hb'
  set u : ℝ := ((magOf a * magOf b : Nat) : ℝ) / unitsPerOne with hu
  have hu0 : 0 ≤ u := by positivity
  have hbits : magBits y = realBits u := by rw [hmul, magBits_signed_realBits]
  have hfin : realBits u ≠ infBits := hbits ▸ (isInf_eq_false_iff y).mp hy
  refine ⟨by rw [hmul, isNaN_signed_realBits], by rw [hmul, signOf_signed_realBits], fun z _ _ => ?_⟩
  obtain ⟨hle, htie⟩ := realBits_noFarther hu0 hfin (magBits z)
  rw [← hbits, ← magOf_eq_unitsOf, ← magOf_eq_unitsOf] at hle htie
  intro dist
  have hdist (v : F32) : (dist v : ℝ) = |(magOf v : ℝ) - u| * unitsPerOne := natAbs_scaled_sub _ _
  constructor
  · rw [← Nat.cast_le (α := ℝ), hdist, hdist]
    exact mul_le_mul_of_nonneg_right hle cast_unitsPerOne_pos.le
  · rw [← Nat.cast_inj (R := ℝ), hdist, hdist]
    exact fun heq => htie (mul_right_cancel₀ cast_unitsPerOne_pos.ne' heq)

/-- Settles O52: a pattern's place in the order is that of its value. -/
theorem comparisonsFollowTheValues : Obligations.ComparisonsFollowTheValues := by
  unfold Obligations.ComparisonsFollowTheValues
  refine ⟨fun _ _ => comparisons_with_nan, fun a b ha hb _ _ => ?_,
    fun _ _ => comparisons_of_infinity_with_finite, fun _ _ => comparisons_of_infinities, by decide⟩
  rw [fLt_of_not_isNaN ha hb, fEq_of_not_isNaN ha hb, decide_eq_true_iff, decide_eq_true_iff]
  exact ⟨orderKey_lt_iff a b, orderKey_eq_iff a b⟩

/-- Settles O53: the conversion is one rounding of the magnitude in units. -/
theorem convertedRealsAreNearest : Obligations.ConvertedRealsAreNearest := by
  unfold Obligations.ConvertedRealsAreNearest
  intro v y
  have hu : 0 ≤ |v| * (unitsPerOne : ℝ) := mul_nonneg (abs_nonneg v) cast_unitsPerOne_pos.le
  have hbits : magBits y = realBits (|v| * (unitsPerOne : ℝ)) := magBits_signed_realBits _ _
  have hinf : isInf y = true ↔ (2 ^ 25 - 1) * 2 ^ 103 ≤ |v| := by
    have hhalf : ((2 ^ 25 - 1) * 2 ^ 252 : ℝ) = (2 ^ 25 - 1) * 2 ^ 103 * (unitsPerOne : ℝ) := by
      rw [unitsPerOne, Nat.cast_pow, Nat.cast_ofNat, mul_assoc, ← pow_add]
    rw [isInf_iff, hbits, realBits_eq_infBits_iff hu, hhalf, mul_le_mul_iff_left₀ cast_unitsPerOne_pos]
  refine ⟨isNaN_signed_realBits _ _, ?_, hinf, fun hfin z _ _ => ?_⟩
  · exact (signOf_signed_realBits _ _).symm ▸ decide_eq_true_iff
  · have hne : realBits (|v| * (unitsPerOne : ℝ)) ≠ infBits := hbits ▸ (isInf_eq_false_iff y).mp hfin
    have hnear := realBits_noFarther hu hne (magBits z)
    rwa [← hbits] at hnear

end Sys2Proof.Machine

/-! PROOFS. The state (spec/10_state.md): its values after reset, the invariant that every step keeps, the independence
of every step from entries beyond the valid counts, and what may change QNAN, the phase, DSTATE and the counters. -/

namespace Sys2Proof.Machine

/-! ### Reset -/

/-- Settles O1: each value is the one State.reset lists. -/
theorem resetHoldsTheListedValues : Obligations.ResetHoldsTheListedValues where
  cfg := rfl
  blksz := rfl
  inRate := rfl
  outRate := rfl
  bandwidth := rfl
  maxDev := rfl
  ctrl := rfl
  status := ⟨rfl, rfl, rfl, rfl, rfl⟩
  counters := ⟨rfl, rfl, rfl, rfl⟩
  indices := ⟨rfl, rfl, rfl, rfl, rfl, rfl, rfl⟩
  ost _ := rfl
  raw _ := rfl
  norm _ := rfl
  audio _ := ⟨rfl, rfl⟩
  dstate := rfl
  session := ⟨rfl, rfl, rfl, rfl⟩

/-- What a reset keeps is none of the values R44 lists. -/
theorem resetValues_resetCore (u : State) : ResetValues (resetCore u) :=
  { resetHoldsTheListedValues with }

/-- Settles O39: every buffer is empty, every count is 0, and phase IDLE asks for no more. -/
theorem resetMeetsTheInvariant : Obligations.ResetMeetsTheInvariant where
  registers := by
    constructor <;> simp [State.reset, Phase.isTerminal, Phase.afterCheck]
  buffers := by
    constructor <;> simp [State.reset, Memory.wf, Memory.Within, Memory.Filled, framesFit]
  streams := by
    constructor <;> simp [State.reset, Phase.inBlock, Phase.afterCheck]

theorem StateInv.resetCore (u : State) : StateInv (resetCore u) :=
  { registers := { resetMeetsTheInvariant.registers with }
    buffers := { resetMeetsTheInvariant.buffers with }
    streams := { resetMeetsTheInvariant.streams with } }

section Invariant

variable {s : State}

/-! ### What the invariant says of a phase -/

theorem StateInv.no_answer (h : StateInv s) (ho : s.offersByte = false) : s.answer = none := by
  by_contra ha
  simp [h.streams.answered ha] at ho

theorem StateInv.no_answer_of_phase (h : StateInv s) (hp : s.phase ≠ .emit) : s.answer = none :=
  h.no_answer (by simp [State.offersByte, hp])

theorem StateInv.no_answer_of_olen (h : StateInv s) (ho : s.olen = 0) : s.answer = none :=
  h.no_answer (by simp [State.offersByte, ho])

/-- Outside EMIT and FAULT nothing is staged. -/
theorem StateInv.unstaged (h : StateInv s) (he : s.phase ≠ .emit) (hf : s.phase ≠ .fault) :
    s.olen = 0 ∧ s.opos = 0 := by
  rcases h.streams.staged with h0 | ⟨-, -, -, hp | hp⟩
  · exact h0
  · exact absurd hp he
  · exact absurd hp hf

theorem StateInv.err_none (h : StateInv s) (hf : s.phase ≠ .fault) : s.err = .none := by
  by_contra he
  exact hf (h.registers.errInFault.1 he)

/-! ### The fields the invariant does not speak of -/

/-- The plans and the Host's words are free. -/
theorem StateInv.with_plans (h : StateInv s) (turns : List Turn) (host : List BusWord) (reads : List Word) :
    StateInv { s with schedule := turns, hostQ := host, hostReads := reads } :=
  { registers := { h.registers with }, buffers := { h.buffers with }, streams := { h.streams with } }

theorem StateInv.without_offer (h : StateInv s) : StateInv { s with offered := none } where
  registers := { h.registers with }
  buffers := { h.buffers with }
  streams := { h.streams with
    lastOffer := nofun
    eosTaken := fun he => ⟨(h.streams.eosTaken he).1, rfl⟩ }

theorem StateInv.without_answer (h : StateInv s) : StateInv { s with answer := none } where
  registers := { h.registers with }
  buffers := { h.buffers with }
  streams := { h.streams with answered := fun ha => absurd rfl ha }

/-! ### Fault entry -/

/-- A fault keeps the invariant where no answer is pending; a configuration fault, before any effect of the run
(spec/60_exceptions.md R242). -/
theorem StateInv.raiseFault (h : StateInv s) {c : ErrCode} (hc : c ≠ .none) (ha : s.answer = none)
    (hcfg : c = .cfgMod ∨ c = .cfgEnc ∨ c = .cfgNch ∨ c = .cfgBlk → s.phase = .check) :
    StateInv (raiseFault c s) where
  registers := { h.registers with
    closed := rfl
    errInFault := ⟨fun _ => rfl, fun _ => hc⟩
    legal := nofun
    untouched := nofun
    configFault := fun h' => by
      have hp := hcfg h'
      obtain ⟨heos, -, hcount⟩ := h.registers.untouched (.inr hp)
      exact ⟨heos, h.streams.decoderNone (.inr hp), hcount⟩
    doneAtEos := nofun }
  buffers := { h.buffers with
    nUntouched := nofun
    audRFilled := nofun }
  streams := { h.streams with
    blockNotEmpty := nofun
    sampleCount := nofun
    decoderBuilt := nofun
    decoderNone := nofun
    staged := h.streams.staged.imp_right fun ⟨hpos, hlen, hi, _⟩ => ⟨hpos, hlen, hi, .inr rfl⟩
    flushed := fun _ hf => absurd rfl hf
    answered := fun ha' => absurd ha ha' }

/-! ### Host control -/

theorem StateInv.start (h : StateInv s) (hp : s.phase = .idle) : StateInv { s with phase := .check } where
  registers := { h.registers with
    closed := by rw [h.registers.closed, hp]; rfl
    errInFault := by simp [h.err_none (by simp [hp])]
    legal := nofun
    untouched := fun _ => h.registers.untouched (.inl hp)
    doneAtEos := nofun }
  buffers := { h.buffers with
    nUntouched := fun _ => h.buffers.nUntouched (.inl hp)
    audRFilled := nofun }
  streams := { h.streams with
    blockNotEmpty := nofun
    sampleCount := nofun
    decoderBuilt := nofun
    decoderNone := fun _ => h.streams.decoderNone (.inl hp)
    staged := .inl (h.unstaged (by simp [hp]) (by simp [hp]))
    flushed := fun _ _ => h.streams.flushed (by simp [hp]) (by simp [hp])
    answered := fun ha => absurd (h.no_answer_of_phase (by simp [hp])) ha }

/-- A write in IDLE keeps the invariant: the reserved bits read 0, and no rule of IDLE names the configuration. -/
theorem StateInv.with_configuration (h : StateInv s) (hp : s.phase = .idle) {cfg blksz : Word}
    (hcfg : cfg &&& 0xFFFFFF80 = 0) (hblk : blksz.getLsbD 0 = false) (inRate outRate bandwidth maxDev : Word) :
    StateInv { s with
      cfg := cfg, blksz := blksz, inRate := inRate, outRate := outRate, bandwidth := bandwidth, maxDev := maxDev } where
  registers := { h.registers with
    cfgReserved := hcfg
    blkszEven := hblk
    legal := fun ha => by simp [hp, Phase.afterCheck] at ha }
  buffers := { h.buffers with
    nBound := by simp [h.buffers.nUntouched (.inl hp)]
    audRFilled := fun he => by simp [hp] at he }
  streams := { h.streams with
    sampleCount := fun he => by simp [hp] at he
    staged := .inl (h.unstaged (by simp [hp]) (by simp [hp])) }

theorem StateInv.writeReg (h : StateInv s) (hp : s.phase = .idle) (data : Word) (r : RegName) :
    StateInv (writeReg data s r) := by
  have hcfg := h.registers.cfgReserved
  have hblk := h.registers.blkszEven
  cases r with
  | CFG => exact h.with_configuration hp (by rw [BitVec.and_assoc]; exact BitVec.and_zero) hblk _ _ _ _
  | BLKSZ => exact h.with_configuration hp hcfg (by simp) _ _ _ _
  | IN_RATE | OUT_RATE | BANDWIDTH | MAX_DEV => exact h.with_configuration hp hcfg hblk _ _ _ _
  | CTRL | STATUS | BLKCNT | INCNT | OUTCNT | LASTN => exact h

/-! ### CHECK -/

/-- The run CHECK starts: the decoder is constructed and a fill begins. -/
theorem StateInv.run_started (h : StateInv s) (hp : s.phase = .check) (hl : s.configLegal) (d : Decoder) (mod : Mod) :
    StateInv { constructDecoder d mod s with n := 0, phase := .read } := by
  have ha : s.answer = none := h.no_answer_of_phase (by simp [hp])
  have herr : s.err = .none := h.err_none (by simp [hp])
  exact
    { registers := { h.registers with
        closed := by simp [h.registers.closed, hp, Phase.isTerminal]
        errInFault := by simp [herr]
        legal := fun _ => hl
        untouched := nofun
        configFault := by simp [herr]
        doneAtEos := nofun }
      buffers := { h.buffers with
        nBound := by simp
        nUntouched := nofun
        rawFilled := filled_zero _
        audRFilled := nofun }
      streams := { h.streams with
        blockNotEmpty := nofun
        sampleCount := nofun
        decoderBuilt := fun _ => rfl
        decoderNone := nofun
        staged := .inl (h.unstaged (by simp [hp]) (by simp [hp]))
        flushed := fun _ _ => h.streams.flushed (by simp [hp]) (by simp [hp])
        answered := fun ha' => absurd ha ha' } }

theorem StateInv.checkConfig (h : StateInv s) (hp : s.phase = .check) (d : Decoder) :
    StateInv (checkConfig d s) := by
  have hfault {c : ErrCode} (hc : c ≠ .none) : StateInv (Machine.raiseFault c s) :=
    h.raiseFault hc (h.no_answer_of_phase (by simp [hp])) fun _ => hp
  rcases checkConfig_cases d s with
    ⟨-, e⟩ | ⟨-, -, e⟩ | ⟨-, -, -, e⟩ | ⟨-, -, -, -, e⟩ | ⟨mod, -, hl, e⟩ <;> rw [e]
  · exact hfault (by simp)
  · exact hfault (by simp)
  · exact hfault (by simp)
  · exact hfault (by simp)
  · exact h.run_started hp hl d mod

/-! ### The fill -/

/-- The end of a fill: DONE at end of stream, or NORM with a block that is not empty. -/
theorem StateInv.end_of_fill (h : StateInv s) (hp : s.phase = .read) {p : Phase} (hp' : p = .done ∨ p = .norm)
    (hdone : p = .done → s.eos = true) (hblock : p.inBlock = true → s.n ≠ 0) :
    StateInv { s with lastn := s.n, phase := p, oclosed := p.isTerminal } := by
  have ha : s.answer = none := h.no_answer_of_phase (by simp [hp])
  have herr : s.err = .none := h.err_none (by simp [hp])
  have hnot : p ≠ .idle ∧ p ≠ .check ∧ p ≠ .decode ∧ p ≠ .emit ∧ p ≠ .fault := by
    rcases hp' with rfl | rfl <;> decide
  obtain ⟨hidle, hcheck, hdecode, hemit, hfault⟩ := hnot
  exact
    { registers := { h.registers with
        closed := rfl
        errInFault := by simp [herr, hfault]
        legal := fun _ => h.registers.legal (by rw [hp]; rfl)
        untouched := by simp [hidle, hcheck]
        configFault := by simp [herr]
        doneAtEos := hdone }
      buffers := { h.buffers with
        nUntouched := by simp [hidle, hcheck]
        audRFilled := by simp [hemit] }
      streams := { h.streams with
        blockNotEmpty := fun hb => ⟨hblock hb, rfl⟩
        sampleCount := by simp [hdecode, hemit]
        decoderBuilt := fun _ => h.streams.decoderBuilt (by rw [hp]; rfl)
        decoderNone := by simp [hidle, hcheck]
        staged := .inl (h.unstaged (by simp [hp]) (by simp [hp]))
        flushed := fun _ _ => h.streams.flushed (by simp [hp]) (by simp [hp])
        answered := fun ha' => absurd ha ha' } }

/-- A byte taken below BLKSZ fills the next entry of RAW. -/
theorem StateInv.byte_taken (h : StateInv s) (hp : s.phase = .read) (b : Byte) (hn : s.n ≠ s.blksz)
    (heos : s.eos = false) :
    StateInv { s with offered := none, raw := s.raw.write s.n.toNat b, n := s.n + 1, incnt := s.incnt + 1 } := by
  have herr : s.err = .none := h.err_none (by simp [hp])
  obtain ⟨-, -, -, -, hblk⟩ := h.registers.legal (by rw [hp]; rfl)
  obtain ⟨hnblk, -⟩ := h.buffers.nBound
  have hlt : s.n.toNat < s.blksz.toNat := by bv_omega
  have hsucc : (s.n + 1).toNat = s.n.toNat + 1 := by bv_omega
  exact
    { registers := { h.registers with
        untouched := by simp [hp]
        configFault := by simp [herr] }
      buffers := { h.buffers with
        rawWf := write_wf _ _ _ h.buffers.rawWf
        rawWithin := within_write b h.buffers.rawWithin (by omega)
        nBound := by simp only [hsucc]; omega
        nUntouched := by simp [hp]
        rawFilled := hsucc ▸ filled_write b h.buffers.rawFilled }
      streams := { h.streams with
        blockNotEmpty := by simp [hp, Phase.inBlock]
        sampleCount := by simp [hp]
        lastOffer := nofun
        eosTaken := by simp [heos] } }

/-- EOS is taken after everything else the Producer offers (spec/20_memory.md R67). -/
theorem StateInv.eos_taken (h : StateInv s) (hp : s.phase = .read) (ho : s.offered = some .eos) :
    StateInv { s with offered := none, eos := true } := by
  have herr : s.err = .none := h.err_none (by simp [hp])
  exact
    { registers := { h.registers with
        untouched := by simp [hp]
        configFault := by simp [herr]
        doneAtEos := by simp [hp] }
      buffers := { h.buffers with }
      streams := { h.streams with
        lastOffer := nofun
        eosTaken := fun _ => ⟨(h.streams.lastOffer _ ho).symm, rfl⟩ } }

theorem StateInv.fillStep (h : StateInv s) (hp : s.phase = .read) : StateInv (fillStep s) := by
  have hopen : s.oclosed = false := by rw [h.registers.closed, hp]; rfl
  rcases fillStep_cases s with
    ⟨hend, hn, e⟩ | ⟨-, hn, e⟩ | ⟨-, -, -, e⟩ | ⟨b, hn, heos, -, e⟩ | ⟨-, -, ho, e⟩ | ⟨-, -, -, e⟩ <;> rw [e]
  · obtain ⟨-, -, -, hblk, -⟩ := h.registers.legal (by rw [hp]; rfl)
    have heos : s.eos = true := hend.resolve_left fun hb => by simp [← hb, hn] at hblk
    exact h.end_of_fill hp (.inl rfl) (fun _ => heos) nofun
  · have hq := h.end_of_fill hp (.inr rfl) nofun fun _ => hn
    rwa [show Phase.norm.isTerminal = s.oclosed from hopen.symm] at hq
  · exact h
  · exact h.byte_taken hp b hn heos
  · exact h.eos_taken hp ho
  · exact h.without_offer.raiseFault (by simp) (h.no_answer_of_phase (by simp [hp])) (by simp)

/-! ### The normalizer -/

theorem StateInv.storeNormalized (h : StateInv s) (hp : s.phase = .norm) {count : Word} (value : Nat → F32)
    (hc : count.toNat = if s.cfgEnc = 0 then s.n.toNat else s.n.toNat / 2) :
    StateInv (storeNormalized count value s) := by
  have ha : s.answer = none := h.no_answer_of_phase (by simp [hp])
  have herr : s.err = .none := h.err_none (by simp [hp])
  have hmax : count.toNat ≤ Config.maxBlock := by
    have := h.buffers.nBound.2
    rw [hc]; split <;> omega
  have hlen : ((List.range count.toNat).map value).length = count.toNat := by simp
  exact
    { registers := { h.registers with
        closed := by rw [storeNormalized_oclosed, h.registers.closed, hp]; rfl
        errInFault := by simp [herr]
        legal := fun _ => h.registers.legal (by rw [hp]; rfl)
        untouched := nofun
        doneAtEos := nofun }
      buffers := { h.buffers with
        normWf := writeFrom_wf _ _ _ h.buffers.normWf
        normWithin := within_writeFrom _ h.buffers.normWithin (hlen.le.trans hmax)
        nUntouched := nofun
        nsBound := hmax
        normFilled := by
          have := filled_writeFrom s.norm ((List.range count.toNat).map value)
          rwa [hlen] at this
        audRFilled := nofun }
      streams := { h.streams with
        blockNotEmpty := fun _ => h.streams.blockNotEmpty (by rw [hp]; rfl)
        sampleCount := fun _ => hc
        decoderBuilt := fun _ => h.streams.decoderBuilt (by rw [hp]; rfl)
        decoderNone := nofun
        staged := .inl (h.unstaged (by simp [hp]) (by simp [hp]))
        flushed := fun _ _ => h.streams.flushed (by simp [hp]) (by simp [hp])
        answered := fun ha' => absurd ha ha' } }

/-! ### The decoder call -/

theorem StateInv.acceptResponse (h : StateInv s) (hp : s.phase = .decode) {r : Response}
    (hfit : framesFit Config.maxFrames r.left.length) (hright : s.stereo = true → rightFits r = true) :
    StateInv (acceptResponse r s) := by
  have ha : s.answer = none := h.no_answer_of_phase (by simp [hp])
  have herr : s.err = .none := h.err_none (by simp [hp])
  have hm := frameCount_le r.left.length
  have hlen (hs : s.stereo = true) : (r.right.getD []).length = r.left.length := by
    obtain ⟨right, hr, hl⟩ := (rightFits_iff r).1 (hright hs)
    rw [hr]; exact hl
  exact
    { registers := { h.registers with
        closed := by rw [acceptResponse_oclosed, h.registers.closed, hp]; rfl
        errInFault := by simp [herr]
        legal := fun _ => h.registers.legal (by rw [hp]; rfl)
        untouched := nofun
        configFault := by simp [herr]
        doneAtEos := nofun }
      buffers := { h.buffers with
        audLWf := writeFrom_wf _ _ _ h.buffers.audLWf
        audRWf := by
          rw [acceptResponse_audR]
          split
          · exact writeFrom_wf _ _ _ h.buffers.audRWf
          · exact h.buffers.audRWf
        audLWithin := fun c hc => within_writeFrom _ (h.buffers.audLWithin c hc) (hfit c hc)
        audRWithin := fun c hc => by
          rw [acceptResponse_audR]
          split
          · next hs => exact within_writeFrom _ (h.buffers.audRWithin c hc) (hlen hs ▸ hfit c hc)
          · exact h.buffers.audRWithin c hc
        nUntouched := nofun
        mBound := fun c hc => hm.trans (hfit c hc)
        iBound := Nat.zero_le _
        audLFilled := filled_mono (filled_writeFrom s.audL r.left) hm
        audRFilled := fun _ (hs : s.stereo = true) => by
          rw [acceptResponse_audR, if_pos hs]
          exact filled_mono (filled_writeFrom s.audR _) (hlen hs ▸ hm)
        ostFilled := filled_zero _ }
      streams := { h.streams with
        blockNotEmpty := fun _ => h.streams.blockNotEmpty (by rw [hp]; rfl)
        sampleCount := fun _ => h.streams.sampleCount (.inl hp)
        decoderBuilt := fun _ => rfl
        decoderNone := nofun
        staged := .inl ⟨rfl, rfl⟩
        flushed := fun he => absurd rfl he
        answered := fun ha' => absurd ha ha' } }

theorem StateInv.decodeBlock (h : StateInv s) (hp : s.phase = .decode) (d : Decoder) (mod : Mod) :
    StateInv (decodeBlock d Config.maxFrames mod s) := by
  have ha : s.answer = none := h.no_answer_of_phase (by simp [hp])
  unfold Machine.decodeBlock
  rcases checkResponse_cases Config.maxFrames (responseOf d mod s) s with ⟨-, e⟩ | ⟨-, -, -, e⟩ | ⟨ho, hr, e⟩ <;> rw [e]
  · exact h.raiseFault (by simp) ha (by simp)
  · exact h.raiseFault (by simp) ha (by simp)
  · exact h.acceptResponse hp ((overflows_false_iff _ _).1 ho) hr

/-! ### The emitter -/

theorem StateInv.nch_of_emit (h : StateInv s) (hp : s.phase = .emit) : s.cfgNch = 1 ∨ s.cfgNch = 2 := by
  obtain ⟨-, -, hn, -, -⟩ := h.registers.legal (by rw [hp]; rfl)
  exact hn

/-- A staged frame, whatever its words are: OST holds that one frame. -/
theorem StateInv.staged_frame (h : StateInv s) (hp : s.phase = .emit) (ho : s.olen = 0) (hi : s.i < s.m)
    {len : BitVec 3} (hlen : s.frameBytes = len) {bytes : List Byte} (hb : bytes.length = len.toNat) (qnan : Bool)
    (qword : PcmWord) (draws : Nat) :
    StateInv { s with
      ost := s.ost.writeFrom 0 bytes, olen := len, opos := 0, qnan := qnan, qword := qword, draws := draws } := by
  have hframe : 0 < len ∧ len.toNat ≤ 4 := by
    rw [← hlen, State.frameBytes]; split <;> decide
  exact
    { registers := { h.registers with }
      buffers := { h.buffers with
        ostWf := writeFrom_wf _ _ _ h.buffers.ostWf
        ostWithin := within_writeFrom _ h.buffers.ostWithin (hb.le.trans hframe.2)
        ostFilled := hb ▸ filled_writeFrom s.ost bytes }
      streams := { h.streams with
        staged := .inr ⟨hframe.1, hlen.symm, hi, .inl hp⟩
        answered := fun ha => absurd (h.no_answer_of_olen ho) ha } }

theorem frameBytes_of_mono (hn : s.cfgNch = 1) : s.frameBytes = 2 := by
  simp [State.frameBytes, State.stereo, hn]

theorem frameBytes_of_stereo (hn : s.cfgNch = 2) : s.frameBytes = 4 := by
  simp [State.frameBytes, State.stereo, hn]

theorem StateInv.stageMono (h : StateInv s) (hp : s.phase = .emit) (hn : s.cfgNch = 1) (ho : s.olen = 0)
    (hi : s.i < s.m) : StateInv (stageMono s) := by
  rw [stageMono_frame]
  exact h.staged_frame hp ho hi (frameBytes_of_mono hn) (bytes := pcmBytes _) rfl _ _ _

theorem StateInv.stageStereo (h : StateInv s) (hp : s.phase = .emit) (hn : s.cfgNch = 2) (ho : s.olen = 0)
    (hi : s.i < s.m) : StateInv (stageStereo s) := by
  obtain ⟨ql, e⟩ := stageStereo_frame s
  rw [e]
  exact h.staged_frame hp ho hi (frameBytes_of_stereo hn) (bytes := pcmBytes _ ++ pcmBytes _) rfl _ _ _

theorem StateInv.outCount_accepted (h : StateInv s) (b : Byte) :
    s.outcnt + 1 = BitVec.ofNat 32 (s.outBytes ++ [b]).length := by
  rw [h.streams.outCount, List.length_append, List.length_singleton, BitVec.ofNat_add]
  rfl

/-- Where a byte is offered, OST holds the frame I. -/
theorem StateInv.frame_staged (h : StateInv s) (ho : s.opos < s.olen) : s.olen = s.frameBytes ∧ s.i < s.m := by
  rcases h.streams.staged with ⟨h0, -⟩ | ⟨-, hlen, hi, -⟩
  · simp [h0] at ho
  · exact ⟨hlen, hi⟩

/-- An accepted byte that is not the last of its frame. -/
theorem StateInv.byte_written (h : StateInv s) (hp : s.phase = .emit) (ho : s.opos < s.olen)
    (hl : s.opos + 1 ≠ s.olen) (b : Byte) :
    StateInv { s with
      answer := none, outBytes := s.outBytes ++ [b], outcnt := s.outcnt + 1, opos := s.opos + 1 } := by
  have herr : s.err = .none := h.err_none (by simp [hp])
  obtain ⟨hlen, hi⟩ := h.frame_staged ho
  exact
    { registers := { h.registers with
        untouched := by simp [hp]
        configFault := by simp [herr] }
      buffers := { h.buffers with }
      streams := { h.streams with
        staged := .inr ⟨by bv_omega, hlen, hi, .inl hp⟩
        answered := fun ha => absurd rfl ha
        outCount := h.outCount_accepted b } }

/-- The last byte of a frame, accepted. -/
theorem StateInv.frame_written (h : StateInv s) (hp : s.phase = .emit) (ho : s.opos < s.olen) (b : Byte) :
    StateInv { s with
      answer := none, outBytes := s.outBytes ++ [b], outcnt := s.outcnt + 1, i := s.i + 1, olen := 0, opos := 0 } := by
  have herr : s.err = .none := h.err_none (by simp [hp])
  obtain ⟨-, hi⟩ := h.frame_staged ho
  exact
    { registers := { h.registers with
        untouched := by simp [hp]
        configFault := by simp [herr] }
      buffers := { h.buffers with
        iBound := by bv_omega
        ostFilled := filled_zero _ }
      streams := { h.streams with
        staged := .inl ⟨rfl, rfl⟩
        flushed := fun he => absurd hp he
        answered := fun ha => absurd rfl ha
        outCount := h.outCount_accepted b } }

theorem StateInv.writeByte (h : StateInv s) (hp : s.phase = .emit) (ho : s.opos < s.olen) : StateInv (writeByte s) := by
  rcases writeByte_cases s with ⟨-, e⟩ | ⟨-, -, e⟩ | ⟨-, hl, e⟩ | ⟨-, e⟩ <;> rw [e]
  · exact h
  · exact h.frame_written hp ho _
  · exact h.byte_written hp ho hl _
  · exact h.without_answer.raiseFault (by simp) rfl (by simp)

theorem StateInv.finishBlock (h : StateInv s) (hp : s.phase = .emit) (ho : s.olen = 0) (hi : s.i = s.m) :
    StateInv (finishBlock s) := by
  have ha : s.answer = none := h.no_answer_of_olen ho
  have herr : s.err = .none := h.err_none (by simp [hp])
  exact
    { registers := { h.registers with
        closed := by rw [finishBlock_oclosed, h.registers.closed, hp]; rfl
        errInFault := by simp [herr]
        legal := fun _ => h.registers.legal (by rw [hp]; rfl)
        untouched := nofun
        doneAtEos := nofun }
      buffers := { h.buffers with
        nBound := by simp
        nUntouched := nofun
        rawFilled := filled_zero _
        audRFilled := nofun }
      streams := { h.streams with
        blockNotEmpty := nofun
        sampleCount := nofun
        decoderBuilt := fun _ => h.streams.decoderBuilt (by rw [hp]; rfl)
        decoderNone := nofun
        staged := .inl (h.streams.staged.elim id fun ⟨hlt, _⟩ => by simp [ho] at hlt)
        flushed := fun _ _ => hi
        answered := fun ha' => absurd ha ha' } }

theorem StateInv.emitStep (h : StateInv s) (hp : s.phase = .emit) {stage : State → State}
    (hstage : s.olen = 0 → s.i < s.m → StateInv (stage s)) : StateInv (emitStep stage s) := by
  rcases emitStep_cases stage s with ⟨ho, e⟩ | ⟨ho, hi, e⟩ | ⟨ho, hi, e⟩ | ⟨-, -, e⟩ <;> rw [e]
  · exact h.writeByte hp ho
  · exact hstage ho hi
  · exact h.finishBlock hp ho hi
  · exact h

/-! ### The agents -/

theorem StateInv.producerTurn (h : StateInv s) : StateInv (producerTurn s) := by
  rcases producerTurn_cases s with ⟨x, rest, ho, hi, -, e⟩ | ⟨-, e⟩ <;> rw [e]
  · exact
      { registers := { h.registers with }
        buffers := { h.buffers with }
        streams := { h.streams with
          lastOffer := fun y hy => by cases hy; rfl
          eosTaken := fun he => by simp [(h.streams.eosTaken he).1] at hi } }
  · exact h

theorem StateInv.consumerTurn (h : StateInv s) : StateInv (consumerTurn s) := by
  rcases consumerTurn_cases s with ⟨a, rest, ho, -, -, e⟩ | ⟨-, e⟩ <;> rw [e]
  · exact
      { registers := { h.registers with }
        buffers := { h.buffers with }
        streams := { h.streams with answered := fun _ => ho } }
  · exact h

/-! ### The turns -/

theorem StateInv.coreTurn {t : State} (h : StateInv s) (e : coreTurn s = .next t) : StateInv t := by
  rcases coreTurn_cases e with ⟨-, rfl⟩ | ⟨hp, rfl⟩ | ⟨hp, rfl⟩ | ⟨hp, henc, rfl⟩ | ⟨hp, henc, rfl⟩ |
    ⟨mod, hp, -, rfl⟩ | ⟨hp, hn, rfl⟩ | ⟨hp, hn, rfl⟩ | ⟨hp, h1, h2, -⟩
  · exact h
  · exact h.checkConfig hp _
  · exact h.fillStep hp
  · exact h.storeNormalized hp _ (by simp [henc])
  · exact h.storeNormalized hp _ (by simp [henc])
  · exact h.decodeBlock hp _ mod
  · exact h.emitStep hp (h.stageMono hp hn)
  · exact h.emitStep hp (h.stageStereo hp hn)
  · exact ((h.nch_of_emit hp).elim h1 h2).elim

theorem StateInv.execBus {t : State} (h : StateInv s) {w : BusWord} (e : exec (decodeBus w) s = .next t) :
    StateInv t := by
  rcases execBus_cases e with rfl | ⟨hp, rfl⟩ | rfl | ⟨data, r, hp, rfl⟩ | ⟨v, rfl⟩
  · exact .resetCore s
  · exact h.start hp
  · exact h
  · exact h.writeReg hp data r
  · exact h.with_plans s.schedule s.hostQ _

theorem StateInv.afterTurn (h : StateInv s) : StateInv s.afterTurn :=
  h.with_plans s.schedule.tail s.hostQ s.hostReads

end Invariant

/-- Settles O40: a step is one agent's turn, and each operation keeps the invariant. -/
theorem everyStepKeepsTheInvariant : Obligations.EveryStepKeepsTheInvariant := by
  unfold Obligations.EveryStepKeepsTheInvariant
  intro s t h hstep
  rcases step_cases hstep with ⟨-, e⟩ | ⟨-, -, rfl⟩ | ⟨w, rest, -, -, e⟩ | ⟨-, rfl⟩ | ⟨-, rfl⟩ | ⟨-, rfl⟩
  · exact h.afterTurn.coreTurn e
  · exact h.afterTurn
  · exact (h.with_plans s.schedule.tail rest s.hostReads).execBus e
  · exact h.afterTurn.producerTurn
  · exact h.afterTurn.consumerTurn
  · exact .resetCore s.afterTurn

/-! ### Entries beyond the valid counts -/

/-- Both outcomes are next states, and these agree but for entries beyond the valid counts. -/
def NextsAgree (o o' : Host.Outcome State Fault Refusal) : Prop :=
  ∃ t t', o = .next t ∧ o' = .next t' ∧ AgreeOnValid t t'

theorem AgreeOnValid.nexts {t t' : State} (h : AgreeOnValid t t') : NextsAgree (.next t) (.next t') :=
  ⟨t, t', rfl, rfl, h⟩

theorem AgreeOnValid.refl (s : State) : AgreeOnValid s s where
  rest := rfl
  raw _ _ := rfl
  norm _ _ := rfl
  audL _ _ := rfl
  audR _ _ _ _ := rfl
  ost _ _ := rfl

theorem AgreeOnValid.ite {a a' b b' : State} {c c' : Prop} [Decidable c] [Decidable c'] (hc : c' ↔ c)
    (ha : c → AgreeOnValid a a') (hb : ¬c → AgreeOnValid b b') :
    AgreeOnValid (if c then a else b) (if c' then a' else b') := by
  simp only [hc]
  split_ifs with h
  · exact ha h
  · exact hb h

/-- What a sequence writes is read back whatever stood there. -/
theorem read_writeFrom_congr {α : Type} (mem mem' : Memory α) (vs : List α) {k : Nat} (hk : k < vs.length) :
    (mem'.writeFrom 0 vs).read k = (mem.writeFrom 0 vs).read k := by
  simp [read_writeFrom, hk]

section Agreement

variable {s s' : State}

/-! What a rule reads is the same in both states. -/

/-- A value that is taken from no buffer. -/
theorem AgreeOnValid.same {α : Type} (h : AgreeOnValid s s') (f : State → α)
    (hf : ∀ raw norm audL audR ost,
      f { s with raw := raw, norm := norm, audL := audL, audR := audR, ost := ost } = f s := by intros; rfl) :
    f s' = f s := by
  rw [h.rest]
  exact hf _ _ _ _ _

theorem AgreeOnValid.busRead_eq (h : AgreeOnValid s s') (off : BitVec 8) : busRead off s' = busRead off s := by
  unfold busRead
  rcases regAt off with _ | r
  · rfl
  · exact h.same (readReg · r) fun _ _ _ _ _ => by cases r <;> rfl

theorem AgreeOnValid.rawAt_eq (h : AgreeOnValid s s') {k : Nat} (hk : k < s.n.toNat) : s'.rawAt k = s.rawAt k := by
  rw [State.rawAt, h.raw k hk]; rfl

theorem AgreeOnValid.normAt_eq (h : AgreeOnValid s s') {k : Nat} (hk : k < s.ns.toNat) : s'.normAt k = s.normAt k := by
  rw [State.normAt, h.norm k hk]; rfl

theorem AgreeOnValid.audLAt_eq (h : AgreeOnValid s s') {k : Nat} (hk : k < s.m.toNat) : s'.audLAt k = s.audLAt k := by
  rw [State.audLAt, h.audL k hk]; rfl

theorem AgreeOnValid.audRAt_eq (h : AgreeOnValid s s') (hp : s.phase = .emit) (hs : s.stereo = true) {k : Nat}
    (hk : k < s.m.toNat) : s'.audRAt k = s.audRAt k := by
  rw [State.audRAt, h.audR hp hs k hk]; rfl

theorem AgreeOnValid.ostAt_eq (h : AgreeOnValid s s') {k : Nat} (hk : k < s.olen.toNat) : s'.ostAt k = s.ostAt k := by
  rw [State.ostAt, h.ost k hk]; rfl

theorem AgreeOnValid.samples_eq (h : AgreeOnValid s s') : s'.samples = s.samples := by
  rw [State.samples, h.same State.ns]
  exact List.map_congr_left fun k hk => h.normAt_eq (List.mem_range.1 hk)

/-! Every operation keeps the agreement. -/

theorem AgreeOnValid.with_schedule (h : AgreeOnValid s s') (turns : List Turn) :
    AgreeOnValid { s with schedule := turns } { s' with schedule := turns } :=
  { h with rest := congrArg (fun u : State => { u with schedule := turns }) h.rest }

theorem AgreeOnValid.with_hostQ (h : AgreeOnValid s s') (host : List BusWord) :
    AgreeOnValid { s with hostQ := host } { s' with hostQ := host } :=
  { h with rest := congrArg (fun u : State => { u with hostQ := host }) h.rest }

theorem AgreeOnValid.with_read (h : AgreeOnValid s s') (v : Word) :
    AgreeOnValid { s with hostReads := s.hostReads ++ [v] } { s' with hostReads := s'.hostReads ++ [v] } :=
  { h with rest := congrArg (fun u : State => { u with hostReads := u.hostReads ++ [v] }) h.rest }

theorem AgreeOnValid.resetCore (h : AgreeOnValid s s') : AgreeOnValid (resetCore s) (resetCore s') := by
  have e : Machine.resetCore s' = Machine.resetCore s := h.same Machine.resetCore
  rw [e]
  exact .refl _

theorem AgreeOnValid.raiseFault (h : AgreeOnValid s s') (c : ErrCode) :
    AgreeOnValid (raiseFault c s) (raiseFault c s') :=
  { h with
    rest := congrArg (Machine.raiseFault c) h.rest
    audR := nofun }

theorem AgreeOnValid.start (h : AgreeOnValid s s') :
    AgreeOnValid { s with phase := .check } { s' with phase := .check } :=
  { h with
    rest := congrArg (fun u : State => { u with phase := .check }) h.rest
    audR := nofun }

theorem AgreeOnValid.writeReg (h : AgreeOnValid s s') (hp : s.phase = .idle) (data : Word) (r : RegName) :
    AgreeOnValid (writeReg data s r) (writeReg data s' r) := by
  cases r with
  | CFG =>
    exact { h with
      rest := congrArg (Machine.writeReg data · .CFG) h.rest
      audR := fun he => by simp [Machine.writeReg, hp] at he }
  | BLKSZ => exact { h with rest := congrArg (Machine.writeReg data · .BLKSZ) h.rest }
  | IN_RATE => exact { h with rest := congrArg (Machine.writeReg data · .IN_RATE) h.rest }
  | OUT_RATE => exact { h with rest := congrArg (Machine.writeReg data · .OUT_RATE) h.rest }
  | BANDWIDTH => exact { h with rest := congrArg (Machine.writeReg data · .BANDWIDTH) h.rest }
  | MAX_DEV => exact { h with rest := congrArg (Machine.writeReg data · .MAX_DEV) h.rest }
  | CTRL | STATUS | BLKCNT | INCNT | OUTCNT | LASTN => exact h

theorem AgreeOnValid.busWrite (h : AgreeOnValid s s') (off : BitVec 8) (data : Word) :
    AgreeOnValid (busWrite off data s) (busWrite off data s') := by
  unfold Machine.busWrite
  cases regAt off with
  | none => exact h
  | some r => exact .ite (by rw [h.same State.phase]) (fun hp => h.writeReg hp data r) fun _ => h

theorem AgreeOnValid.checkConfig (h : AgreeOnValid s s') (d : Decoder) :
    AgreeOnValid (checkConfig d s) (checkConfig d s') := by
  unfold Machine.checkConfig
  rw [h.same State.cfgMod]
  cases modOf s.cfgMod with
  | none => exact h.raiseFault _
  | some mod =>
    refine .ite (by rw [h.same State.cfgEnc]) (fun _ => h.raiseFault _) fun _ => ?_
    refine .ite (by rw [h.same State.cfgNch]) (fun _ => h.raiseFault _) fun _ => ?_
    refine .ite (by rw [h.same State.blksz]) (fun _ => h.raiseFault _) fun _ => ?_
    exact { h with
      rest := congrArg (fun u => { constructDecoder d mod u with n := 0, phase := .read }) h.rest
      raw := fun _ hk => absurd hk (Nat.not_lt_zero _)
      audR := nofun }

theorem AgreeOnValid.endFill (h : AgreeOnValid s s') : AgreeOnValid (endFill s) (endFill s') := by
  unfold Machine.endFill
  refine .ite (by rw [h.same State.n]) (fun _ => ?_) fun _ => ?_
  · exact { h with
      rest := congrArg (fun u : State => { u with lastn := u.n, phase := .done, oclosed := true }) h.rest
      audR := nofun }
  · exact { h with
      rest := congrArg (fun u : State => { u with lastn := u.n, phase := .norm }) h.rest
      audR := nofun }

/-- A byte taken extends the part of RAW that both states agree on. -/
theorem AgreeOnValid.byte_taken (h : AgreeOnValid s s') (b : Byte) :
    AgreeOnValid
      { s with offered := none, raw := s.raw.write s.n.toNat b, n := s.n + 1, incnt := s.incnt + 1 }
      { s' with offered := none, raw := s'.raw.write s'.n.toNat b, n := s'.n + 1, incnt := s'.incnt + 1 } :=
  { h with
    rest := congrArg (fun u : State => { u with
      offered := none, raw := s'.raw.write s'.n.toNat b, n := u.n + 1, incnt := u.incnt + 1 }) h.rest
    raw := fun k hk => by
      have hk : k < (s.n + 1).toNat := hk
      simp only [h.same State.n, read_write]
      split_ifs with hkn
      · rfl
      · exact h.raw k (by bv_omega) }

theorem AgreeOnValid.without_offer (h : AgreeOnValid s s') :
    AgreeOnValid { s with offered := none } { s' with offered := none } :=
  { h with rest := congrArg (fun u : State => { u with offered := none }) h.rest }

theorem AgreeOnValid.takeInput (h : AgreeOnValid s s') : AgreeOnValid (takeInput s) (takeInput s') := by
  unfold Machine.takeInput
  rw [h.same State.offered]
  rcases s.offered with _ | b | _ | _
  · exact h
  · exact h.byte_taken b
  · exact { h with rest := congrArg (fun u : State => { u with offered := none, eos := true }) h.rest }
  · exact h.without_offer.raiseFault _

theorem AgreeOnValid.fillStep (h : AgreeOnValid s s') : AgreeOnValid (fillStep s) (fillStep s') :=
  .ite (by rw [h.same State.n, h.same State.blksz, h.same State.eos]) (fun _ => h.endFill) fun _ => h.takeInput

theorem AgreeOnValid.storeNormalized (h : AgreeOnValid s s') (count : Word) {value value' : Nat → F32}
    (hv : ∀ k, k < count.toNat → value' k = value k) :
    AgreeOnValid (storeNormalized count value s) (storeNormalized count value' s') :=
  { h with
    rest := congrArg (Machine.storeNormalized count value') h.rest
    norm := fun k (hk : k < count.toNat) => by
      have hvs : (List.range count.toNat).map value' = (List.range count.toNat).map value :=
        List.map_congr_left fun j hj => hv j (List.mem_range.1 hj)
      rw [storeNormalized_norm, storeNormalized_norm, hvs]
      exact read_writeFrom_congr _ _ _ (by simpa using hk)
    audR := nofun }

theorem AgreeOnValid.acceptResponse (h : AgreeOnValid s s') {r : Response}
    (hright : s.stereo = true → rightFits r = true) :
    AgreeOnValid (acceptResponse r s) (acceptResponse r s') := by
  have hm {k : Nat} (hk : k < (frameCount r.left.length).toNat) : k < r.left.length :=
    Nat.lt_of_lt_of_le hk (frameCount_le _)
  exact
    { h with
      rest := by
        rw [acceptResponse_audR, h.same State.stereo]
        exact congrArg (Machine.acceptResponse r) h.rest
      audL := fun k hk => read_writeFrom_congr _ _ _ (hm hk)
      audR := fun _ (hs : s.stereo = true) k hk => by
        obtain ⟨right, hr, hl⟩ := (rightFits_iff r).1 (hright hs)
        rw [acceptResponse_audR, acceptResponse_audR, if_pos ((h.same State.stereo).trans hs), if_pos hs, hr]
        exact read_writeFrom_congr _ _ _ (hl ▸ hm hk)
      ost := fun _ hk => absurd hk (Nat.not_lt_zero _) }

theorem AgreeOnValid.decodeBlock (h : AgreeOnValid s s') (d : Decoder) (cap : Option Nat) (mod : Mod) :
    AgreeOnValid (decodeBlock d cap mod s) (decodeBlock d cap mod s') := by
  have hr : responseOf d mod s' = responseOf d mod s := by
    have hds : s'.decoderState = s.decoderState := h.same State.decoderState
    rw [responseOf, hds, h.samples_eq, h.same State.stereo, responseOf]
  unfold Machine.decodeBlock checkResponse
  rw [hr]
  refine .ite Iff.rfl (fun _ => h.raiseFault _) fun _ => ?_
  refine .ite (by rw [h.same State.stereo]) (fun _ => h.raiseFault _) fun hfit => h.acceptResponse fun hs => ?_
  simpa [hs] using hfit

theorem AgreeOnValid.quantize (h : AgreeOnValid s s') (squared : Bool) (x : F32) :
    AgreeOnValid (quantize squared x s) (quantize squared x s') := by
  refine .ite Iff.rfl (fun _ => ?_) fun _ => ?_
  · exact { h with
      rest := congrArg
        (fun u : State => { u with qnan := true, qword := Config.nanWord u.draws, draws := u.draws + 1 }) h.rest }
  · exact { h with
      rest := congrArg (fun u : State => { u with qword := BitVec.ofInt 16 (quantValue squared x) }) h.rest }

theorem AgreeOnValid.stageBytes (h : AgreeOnValid s s') (bytes : List Byte) :
    AgreeOnValid (stageBytes bytes s) (stageBytes bytes s') :=
  { h with
    rest := congrArg (Machine.stageBytes bytes) h.rest
    ost := fun k (hk : k < (BitVec.ofNat 3 bytes.length).toNat) =>
      read_writeFrom_congr _ _ _ (Nat.lt_of_lt_of_le hk (Nat.mod_le _ _)) }

theorem AgreeOnValid.stageMono (h : AgreeOnValid s s') (hi : s.i < s.m) :
    AgreeOnValid (stageMono s) (stageMono s') := by
  have hl := h.quantize s.cfgSq (s.audLAt s.i.toNat)
  simp only [Machine.stageMono, h.same State.cfgSq, h.same State.i, h.audLAt_eq hi, hl.same State.qword]
  exact hl.stageBytes _

theorem AgreeOnValid.stageStereo (h : AgreeOnValid s s') (hp : s.phase = .emit) (hs : s.stereo = true)
    (hi : s.i < s.m) : AgreeOnValid (stageStereo s) (stageStereo s') := by
  have hl := h.quantize s.cfgSq (s.audLAt s.i.toNat)
  have hr := hl.quantize s.cfgSq (s.audRAt s.i.toNat)
  simp only [Machine.stageStereo, h.same State.cfgSq, h.same State.i, h.audLAt_eq hi, h.audRAt_eq hp hs hi,
    hl.same State.qword, hr.same State.qword]
  exact hr.stageBytes _

theorem AgreeOnValid.acceptByte (h : AgreeOnValid s s') (ho : s.opos < s.olen) :
    AgreeOnValid (acceptByte s) (acceptByte s') := by
  simp only [Machine.acceptByte, h.same State.opos, h.ostAt_eq ho]
  refine .ite (by rw [h.same State.olen]) (fun _ => ?_) fun _ => ?_
  · exact { h with
      rest := congrArg (fun u : State => { u with
        answer := none, outBytes := u.outBytes ++ [s.ostAt s.opos.toNat], outcnt := u.outcnt + 1, i := u.i + 1,
        olen := 0, opos := 0 }) h.rest
      ost := fun _ hk => absurd hk (Nat.not_lt_zero _) }
  · exact { h with
      rest := congrArg (fun u : State => { u with
        answer := none, outBytes := u.outBytes ++ [s.ostAt s.opos.toNat], outcnt := u.outcnt + 1,
        opos := s.opos + 1 }) h.rest }

theorem AgreeOnValid.without_answer (h : AgreeOnValid s s') :
    AgreeOnValid { s with answer := none } { s' with answer := none } :=
  { h with rest := congrArg (fun u : State => { u with answer := none }) h.rest }

theorem AgreeOnValid.writeByte (h : AgreeOnValid s s') (ho : s.opos < s.olen) :
    AgreeOnValid (writeByte s) (writeByte s') := by
  unfold Machine.writeByte
  rw [h.same State.answer]
  rcases s.answer with _ | _ | _
  · exact h
  · exact h.acceptByte ho
  · exact h.without_answer.raiseFault _

theorem AgreeOnValid.finishBlock (h : AgreeOnValid s s') : AgreeOnValid (finishBlock s) (finishBlock s') :=
  { h with
    rest := congrArg Machine.finishBlock h.rest
    raw := fun _ hk => absurd hk (Nat.not_lt_zero _)
    audR := nofun }

theorem AgreeOnValid.emitStep (h : AgreeOnValid s s') {stage : State → State}
    (hstage : s.i < s.m → AgreeOnValid (stage s) (stage s')) :
    AgreeOnValid (emitStep stage s) (emitStep stage s') := by
  unfold Machine.emitStep
  refine .ite (by rw [h.same State.opos, h.same State.olen]) h.writeByte fun _ => ?_
  refine .ite (by rw [h.same State.olen, h.same State.i, h.same State.m]) (fun hi => hstage hi.2) fun _ => ?_
  exact .ite (by rw [h.same State.olen, h.same State.i, h.same State.m]) (fun _ => h.finishBlock) fun _ => h

theorem AgreeOnValid.producerTurn (h : AgreeOnValid s s') : AgreeOnValid (producerTurn s) (producerTurn s') := by
  unfold Machine.producerTurn
  rw [h.same State.offered, h.same State.inEnded, h.same State.producerQ]
  split
  · next x rest _ _ _ =>
    exact { h with
      rest := congrArg
        (fun u : State => { u with offered := some x, inEnded := endsStream x, producerQ := rest }) h.rest }
  · exact h

theorem AgreeOnValid.consumerTurn (h : AgreeOnValid s s') : AgreeOnValid (consumerTurn s) (consumerTurn s') := by
  unfold Machine.consumerTurn
  rw [h.same State.offersByte, h.same State.answer, h.same State.consumerQ]
  split
  · next a rest _ _ _ =>
    exact { h with rest := congrArg (fun u : State => { u with answer := some a, consumerQ := rest }) h.rest }
  · exact h

theorem AgreeOnValid.exec_decodeBus (h : AgreeOnValid s s') (w : BusWord) :
    NextsAgree (exec (decodeBus w) s) (exec (decodeBus w) s') := by
  rcases decodeBus_cases w with e | e | ⟨off, data, e⟩ | ⟨off, e⟩ <;> rw [e]
  · exact h.resetCore.nexts
  · exact (AgreeOnValid.ite (by rw [h.same State.phase]) (fun _ => h.start) fun _ => h).nexts
  · exact (h.busWrite off data).nexts
  · simp only [exec, execRegRd, h.busRead_eq]
    exact (h.with_read _).nexts

theorem AgreeOnValid.exec_normU8 (h : AgreeOnValid s s') : NextsAgree (exec .normU8 s) (exec .normU8 s') := by
  simp only [exec, execNormU8, h.same State.n]
  refine (h.storeNormalized _ fun k hk => ?_).nexts
  rw [u8Sample, h.rawAt_eq hk, u8Sample]

theorem AgreeOnValid.exec_normI16 (h : AgreeOnValid s s') : NextsAgree (exec .normI16 s) (exec .normI16 s') := by
  simp only [exec, execNormI16, h.same State.n]
  refine (h.storeNormalized _ fun k hk => ?_).nexts
  have hk : k < s.n.toNat / 2 := by simpa using hk
  have hk : 2 * k + 1 < s.n.toNat := by omega
  rw [i16Sample, h.rawAt_eq hk, h.rawAt_eq (by omega), i16Sample]

/-- Under the invariant the Core's operation reads nothing beyond the valid counts. -/
theorem AgreeOnValid.coreTurn (h : AgreeOnValid s s') (hinv : StateInv s) : NextsAgree (coreTurn s) (coreTurn s') := by
  have hlegal := hinv.registers.legal
  unfold Machine.coreTurn
  rw [h.same State.phase, h.same State.osw, decodeOsw_osw]
  cases hp : s.phase with
  | idle | done | fault => exact h.nexts
  | check => exact (h.checkConfig _).nexts
  | read => exact h.fillStep.nexts
  | norm =>
    obtain ⟨-, henc | henc, -⟩ := hlegal (by rw [hp]; rfl) <;> rw [henc]
    · exact h.exec_normU8
    · exact h.exec_normI16
  | decode =>
    obtain ⟨hmod, -⟩ := hlegal (by rw [hp]; rfl)
    obtain hm | hm | hm : s.cfgMod = 0 ∨ s.cfgMod = 1 ∨ s.cfgMod = 2 := by
      generalize s.cfgMod = c at hmod
      revert c
      decide
    all_goals
      rw [hm]
      exact (h.decodeBlock _ _ _).nexts
  | emit =>
    obtain hn | hn := hinv.nch_of_emit hp <;> rw [hn]
    · exact (h.emitStep h.stageMono).nexts
    · exact (h.emitStep (h.stageStereo hp (by simp [State.stereo, hn]))).nexts

theorem AgreeOnValid.hostTurn (h : AgreeOnValid s s') : NextsAgree (hostTurn s) (hostTurn s') := by
  unfold Machine.hostTurn
  rw [h.same State.hostQ]
  cases s.hostQ with
  | nil => exact h.nexts
  | cons w rest => exact (h.with_hostQ rest).exec_decodeBus w

theorem AgreeOnValid.takeTurn (h : AgreeOnValid s s') (hinv : StateInv s) (turn : Turn) :
    NextsAgree (takeTurn turn s) (takeTurn turn s') := by
  cases turn with
  | core => exact h.coreTurn hinv
  | host => exact h.hostTurn
  | producer => exact h.producerTurn.nexts
  | consumer => exact h.consumerTurn.nexts
  | reset => exact h.resetCore.nexts

theorem AgreeOnValid.step (h : AgreeOnValid s s') (hinv : StateInv s) : NextsAgree (step s) (step s') := by
  unfold Machine.step
  rw [h.same State.schedule]
  cases s.schedule with
  | nil => exact h.coreTurn hinv
  | cons turn rest =>
    exact (h.with_schedule rest).takeTurn (hinv.with_plans rest s.hostQ s.hostReads) turn

end Agreement

/-- Settles O42: both states give the turn to the same agent, and each operation keeps the agreement. -/
theorem entriesBeyondTheCountsAreNeverRead : Obligations.EntriesBeyondTheCountsAreNeverRead := by
  unfold Obligations.EntriesBeyondTheCountsAreNeverRead
  intro s s' t hinv h hstep
  obtain ⟨u, u', e, e', hu⟩ := h.step hinv
  cases hstep.symm.trans e
  exact ⟨u', e', hu⟩

/-! ### What a step may change -/

/-- Settles O35: of the transitions of a step, those that name two phases name one of the eleven pairs. -/
theorem phaseFollowsTheLoop : Obligations.PhaseFollowsTheLoop := by
  unfold Obligations.PhaseFollowsTheLoop
  intro s t hstep hne
  cases step_transition hstep with
  | reset u => exact .inl (resetValues_resetCore u)
  | start _ hp | checkFault _ _ hp | checkOk _ hp _ | fillDone hp _ _ | fillNorm hp _ _ | fillErr hp _ _ _
  | norm _ _ hp | decFault _ _ hp | decOk _ _ _ hp _ | writeErr hp _ _ | finish hp _ _ =>
    exact .inr (by simp [hp])
  | same | write | fillByte | fillEos | stageMono | stageStereo | writeLast | writeMore | writeWait | stuck | offer
  | answer => exact absurd rfl hne
  | quant =>
    rw [quantize_frame] at hne
    exact absurd rfl hne

/-- Settles O33: STAGE alone sets QNAN, where a sample of its frame is a NaN; a legal NCH leaves the scalar quantizer no
step of its own. -/
theorem qnanIsStickyAndSetByNaNOnly : Obligations.QnanIsStickyAndSetByNaNOnly := by
  unfold Obligations.QnanIsStickyAndSetByNaNOnly
  intro s t hinv hstep
  cases step_transition hstep
  case reset u => exact ⟨fun _ => .inr (resetValues_resetCore u), fun _ => nofun⟩
  case stageMono hp ho hi hn hq | stageStereo hp ho hi hn hq =>
    subst hq
    refine ⟨fun h => .inl (by simp [h]), fun h0 h1 => ⟨hp, ho, hi, ?_⟩⟩
    simpa [State.frameSamples, State.stereo, hn, h0] using h1
  case quant hp h1 h2 =>
    obtain ⟨-, -, hn, -⟩ := hinv.legal (by rw [hp]; rfl)
    exact (hn.elim h1 h2).elim
  all_goals exact ⟨.inl, fun h0 h1 => by simp [h0] at h1⟩

/-- Settles O38: CHECK finds no decoder, and a DECODE finds the one of the run and a block that is not empty. -/
theorem decoderStateChangesOnlyInCheckAndDecode : Obligations.DecoderStateChangesOnlyInCheckAndDecode := by
  unfold Obligations.DecoderStateChangesOnlyInCheckAndDecode
  intro s t hinv hstep hne
  cases step_transition hstep
  case reset u => exact .inl (resetValues_resetCore u)
  case checkOk hp _ => exact .inr (.inl ⟨hp, rfl, hinv.streams.decoderNone (.inr hp)⟩)
  case decOk mod _ _ hp hm =>
    obtain ⟨hn, -⟩ := hinv.streams.blockNotEmpty (by rw [hp]; rfl)
    obtain ⟨ds, hds⟩ := Option.isSome_iff_exists.1 (hinv.streams.decoderBuilt (by rw [hp]; rfl))
    refine .inr (.inr ⟨hp, rfl, hn, rfl, mod, ds, hm, hds, ?_⟩)
    simp only [responseOf, State.decoderState, hds, Option.getD_some]
  case quant =>
    rw [quantize_frame] at hne
    exact absurd rfl hne
  all_goals exact absurd rfl hne

/-- An item that stands offered before and after is not taken. -/
theorem not_taken {o : Option InItem} : ¬(o ≠ none ∧ o = none ∧ o ≠ some .eos ∧ o ≠ some .err) :=
  fun ⟨hne, he, _⟩ => hne he

/-- An answer that is pending before and after accepts nothing. -/
theorem not_accepted {a : Option OutAnswer} : ¬(a = some .accept ∧ a = none) := fun ⟨h, h'⟩ => by simp [h] at h'

/-- Settles O32: one transition for each event of a counter; every other transition keeps all four, and is no such
event. -/
theorem countersCountOnlyTheirEvents : Obligations.CountersCountOnlyTheirEvents := by
  unfold Obligations.CountersCountOnlyTheirEvents
  intro s t hstep
  have hkept {p : Phase} : ¬(p = .decode ∧ p = .emit) ∧ ¬(p = .read ∧ (p = .norm ∨ p = .done)) := by
    cases p <;> simp
  cases step_transition hstep with
  | reset u => exact .inl (resetValues_resetCore u)
  -- DECODE completes, a byte is taken, a byte is accepted, a fill ends
  | decOk _ _ _ hp _ =>
    exact .inr ⟨(if_pos ⟨hp, rfl⟩).symm, (if_neg not_taken).symm, (if_neg not_accepted).symm, by simp⟩
  | fillByte b hp _ _ ho => exact .inr ⟨by simp [hp], by simp [ho], (if_neg not_accepted).symm, by simp [hp]⟩
  | writeLast hp _ ha _ | writeMore hp _ ha _ =>
    exact .inr ⟨by simp [hp], (if_neg not_taken).symm, by simp [ha], by simp [hp]⟩
  | fillDone hp _ _ | fillNorm hp _ _ =>
    exact .inr ⟨by simp, (if_neg not_taken).symm, (if_neg not_accepted).symm, by simp [hp]⟩
  -- another item or answer is used up
  | fillEos hp _ _ ho | fillErr hp _ _ ho =>
    exact .inr ⟨by simp [hp], by simp [ho], (if_neg not_accepted).symm, by simp [hp]⟩
  | writeErr hp _ ha => exact .inr ⟨by simp, (if_neg not_taken).symm, by simp [ha], by simp [hp]⟩
  -- the phase changes and nothing is counted
  | start _ hp | checkFault _ _ hp | checkOk _ hp _ | norm _ _ hp | decFault _ _ hp | finish hp _ _ =>
    exact .inr ⟨by simp [hp], (if_neg not_taken).symm, (if_neg not_accepted).symm, by simp [hp]⟩
  -- the phase is kept
  | offer _ _ ho _ _ =>
    exact .inr ⟨(if_neg hkept.1).symm, by simp, (if_neg not_accepted).symm, (if_neg hkept.2).symm⟩
  | answer _ _ _ ha _ => exact .inr ⟨(if_neg hkept.1).symm, (if_neg not_taken).symm, by simp, (if_neg hkept.2).symm⟩
  | same | write | stageMono | stageStereo | writeWait | stuck =>
    exact .inr ⟨(if_neg hkept.1).symm, (if_neg not_taken).symm, (if_neg not_accepted).symm, (if_neg hkept.2).symm⟩
  | quant =>
    rw [quantize_frame]
    exact .inr ⟨(if_neg hkept.1).symm, (if_neg not_taken).symm, (if_neg not_accepted).symm, (if_neg hkept.2).symm⟩

/-! ### STATUS -/

/-- Settles O7: STATUS is composed of its fields, and each is read back from its bits. -/
theorem statusWordHoldsItsFields : Obligations.StatusWordHoldsItsFields := by
  unfold Obligations.StatusWordHoldsItsFields
  intro s
  refine ⟨?phase, ?eos, ?qnan, ?zero, ?err, ?high, rfl, rfl⟩
  case phase => exact BitVec.extractLsb'_append_eq_right
  case eos => simp only [State.statusWord, BitVec.getLsbD_append]; simp
  case qnan => simp only [State.statusWord, BitVec.getLsbD_append]; simp
  case zero =>
    unfold State.statusWord
    iterate 3 rw [BitVec.extractLsb'_append_eq_of_le (by decide)]
    exact BitVec.extractLsb'_append_eq_right
  case err =>
    unfold State.statusWord
    iterate 4 rw [BitVec.extractLsb'_append_eq_of_le (by decide)]
    exact BitVec.extractLsb'_append_eq_right
  case high =>
    unfold State.statusWord
    iterate 5 rw [BitVec.extractLsb'_append_eq_of_le (by decide)]
    exact BitVec.extractLsb'_eq_self

end Sys2Proof.Machine

/-! PROOFS. The two streams (spec/20_memory.md): the two agents' turns, the accepted bytes of a step and of a block, and
the output of a whole run as one function of its input. -/

namespace Sys2Proof.Machine

/-! ### The turns of the two agents -/

theorem step_of_schedule {s : State} {turn : Turn} {turns : List Turn} (h : s.schedule = turn :: turns) :
    step s = takeTurn turn { s with schedule := turns } := by
  simp [step, h]

theorem endsStream_eq (x : InItem) : endsStream x = decide (x = .eos ∨ x = .err) := by
  cases x <;> simp [endsStream]

/-- Settles O28: the Producer's turn is an offer exactly where none stands, the stream has not ended and an item is
planned. -/
theorem producerOffersInOrder : Obligations.ProducerOffersInOrder := by
  unfold Obligations.ProducerOffersInOrder
  intro s turns hs
  rw [step_of_schedule hs]
  simp only [takeTurn]
  rcases producerTurn_cases { s with schedule := turns } with ⟨x, rest, ho, hi, hq, e⟩ | ⟨hidle, e⟩ <;> rw [e]
  · have hcan : s.offered = none ∧ s.inEnded = false ∧ s.producerQ = x :: rest := ⟨ho, hi, hq⟩
    refine ⟨fun y rest' _ _ hq' => ?_, fun hidle => ?_⟩
    · cases hq.symm.trans hq'
      rw [endsStream_eq]
    · simp [hcan] at hidle
  · have hidle : s.offered ≠ none ∨ s.inEnded = true ∨ s.producerQ = [] := hidle
    exact ⟨fun y rest' ho hi hq => by simp [ho, hi, hq] at hidle, fun _ => rfl⟩

theorem offersByte_iff (s : State) : s.offersByte = true ↔ s.phase = .emit ∧ s.opos < s.olen := by
  simp [State.offersByte]

/-- Settles O29: the Consumer's turn is an answer exactly where a byte is offered, none stands and one is planned. -/
theorem consumerAnswersAnOfferedByte : Obligations.ConsumerAnswersAnOfferedByte := by
  unfold Obligations.ConsumerAnswersAnOfferedByte
  intro s turns hs
  rw [step_of_schedule hs]
  simp only [takeTurn, ← offersByte_iff]
  rcases consumerTurn_cases { s with schedule := turns } with ⟨a, rest, ho, ha, hq, e⟩ | ⟨hidle, e⟩ <;> rw [e]
  · have hcan : s.offersByte = true ∧ s.answer = none ∧ s.consumerQ = a :: rest := ⟨ho, ha, hq⟩
    refine ⟨fun b rest' _ _ hq' => ?_, fun hidle => ?_⟩
    · cases hq.symm.trans hq'
      rfl
    · simp [hcan] at hidle
  · have hidle : s.offersByte = false ∨ s.answer ≠ none ∨ s.consumerQ = [] := hidle
    exact ⟨fun b rest' ho ha hq => by simp [ho, ha, hq] at hidle, fun _ => rfl⟩

/-! ### The emitter's sub-steps -/

theorem emitStep_write {s : State} (stage : State → State) (h : s.opos < s.olen) :
    emitStep stage s = writeByte s := if_pos h

theorem emitStep_stage {s : State} (stage : State → State) (ho : s.olen = 0) (hi : s.i < s.m) :
    emitStep stage s = stage s := by
  rw [emitStep, if_neg (by simp [ho]), if_pos ⟨ho, hi⟩]

theorem emitStep_finish {s : State} (stage : State → State) (ho : s.olen = 0) (hi : s.i = s.m) :
    emitStep stage s = finishBlock s := by
  rw [emitStep, if_neg (by simp [ho]), if_neg (by simp [hi]), if_pos ⟨ho, hi⟩]

/-- Settles O18: both EMIT operations perform WRITE where a byte is staged, and the byte is no free value. -/
theorem emitWritesOneStagedByte : Obligations.EmitWritesOneStagedByte := by
  unfold Obligations.EmitWritesOneStagedByte
  intro i hi s b ho hb
  have hexec : exec i s = .next (writeByte s) := by
    rcases hi with rfl | rfl <;> simp only [exec, execEmitMono, execEmitStereo, emitStep_write _ ho]
  rw [hexec, ← ostAt_eq hb]
  rcases writeByte_cases s with ⟨ha, e⟩ | ⟨ha, hl, e⟩ | ⟨ha, hl, e⟩ | ⟨ha, e⟩ <;> rw [e, ha]
  · exact ⟨fun _ => rfl, nofun, nofun, nofun⟩
  · exact ⟨nofun, fun _ hl' => absurd hl hl', fun _ _ => rfl, nofun⟩
  · exact ⟨nofun, fun _ _ => rfl, fun _ hl' => absurd hl' hl, nofun⟩
  · exact ⟨nofun, nofun, nofun, fun _ => rfl⟩

/-- Settles O31: WRITE is the one transition that appends to the output. -/
theorem outputGrowsByOneAcceptedByte : Obligations.OutputGrowsByOneAcceptedByte := by
  unfold Obligations.OutputGrowsByOneAcceptedByte
  intro s t hstep hne
  cases step_transition hstep
  case reset u => exact .inl (resetValues_resetCore u)
  case writeLast hp ho ha _ | writeMore hp ho ha _ => exact .inr ⟨hp, ho, ha, rfl, rfl⟩
  case quant =>
    rw [quantize_frame] at hne
    exact absurd rfl hne
  all_goals exact absurd rfl hne

/-! ### The input stream and the configuration -/

/-- A fill that may take an item: N is below BLKSZ, and every byte of the earlier blocks is written. -/
theorem StateInv.room_in_fill {s : State} (h : StateInv s) (hp : s.phase = .read) (hn : s.n ≠ s.blksz) :
    s.n.toNat < s.blksz.toNat ∧ s.olen = 0 ∧ s.i = s.m := by
  obtain ⟨hle, -⟩ := h.buffers.nBound
  obtain ⟨ho, -⟩ := h.unstaged (by simp [hp]) (by simp [hp])
  exact ⟨by bv_omega, ho, h.streams.flushed (by simp [hp]) (by simp [hp])⟩

/-- Settles O30: of the transitions of a step, reset and the three ways to take an item are those that remove it. -/
theorem inputIsTakenOnlyDuringAFill : Obligations.InputIsTakenOnlyDuringAFill := by
  unfold Obligations.InputIsTakenOnlyDuringAFill
  intro s t x hinv hstep hx hne
  cases step_transition hstep
  case reset u => exact .inl (resetValues_resetCore u)
  case fillByte b hp hn he ho =>
    obtain ⟨hlt, hlen, hi⟩ := hinv.room_in_fill hp hn
    cases hx.symm.trans ho
    refine .inr ⟨hp, hlt, he, hlen, hi, rfl, fun b' hb => ?_, nofun, nofun⟩
    cases hb
    exact ⟨rfl, read_write_same _ _ _⟩
  case fillEos hp hn he ho =>
    obtain ⟨hlt, hlen, hi⟩ := hinv.room_in_fill hp hn
    cases hx.symm.trans ho
    exact .inr ⟨hp, hlt, he, hlen, hi, rfl, nofun, fun _ => rfl, nofun⟩
  case fillErr hp hn he ho =>
    obtain ⟨hlt, hlen, hi⟩ := hinv.room_in_fill hp hn
    cases hx.symm.trans ho
    exact .inr ⟨hp, hlt, he, hlen, hi, rfl, nofun, nofun, fun _ => ⟨rfl, rfl⟩⟩
  case offer ho _ _ => simp [hx] at ho
  case quant =>
    rw [quantize_frame] at hne
    exact absurd hx hne
  all_goals exact absurd hx hne

/-- Settles O34: a write of the configuration needs IDLE, and reset goes to IDLE. -/
theorem configurationIsFrozenDuringARun : Obligations.ConfigurationIsFrozenDuringARun := by
  unfold Obligations.ConfigurationIsFrozenDuringARun
  intro s t hstep hs ht
  cases step_transition hstep
  case reset => exact absurd rfl ht
  case write hp => exact absurd hp hs
  case quant =>
    rw [quantize_frame]
    exact ⟨rfl, rfl, rfl, rfl, rfl, rfl⟩
  all_goals exact ⟨rfl, rfl, rfl, rfl, rfl, rfl⟩

/-! ### A mono run and AUD_R -/

/-- A meaning neither writes AUD_R nor depends on it. -/
def IgnoresRight (f : State → State) (s : State) : Prop :=
  (f s).audR = s.audR ∧ ∀ right, f { s with audR := right } = { f s with audR := right }

theorem ignoresRight_raiseFault (c : ErrCode) (s : State) : IgnoresRight (raiseFault c) s :=
  ⟨rfl, fun _ => rfl⟩

theorem ignoresRight_checkConfig (d : Decoder) (s : State) : IgnoresRight (checkConfig d) s := by
  simp only [IgnoresRight, checkConfig, State.cfgMod, State.cfgEnc, State.cfgNch]
  cases modOf _ with
  | none => exact ignoresRight_raiseFault _ s
  | some mod => dsimp only; split_ifs <;> exact ⟨rfl, fun _ => rfl⟩

theorem ignoresRight_takeInput (s : State) : IgnoresRight takeInput s := by
  unfold IgnoresRight takeInput
  rcases ho : s.offered with _ | b | _ | _
  · simp [ho]
  · simp
  · simp
  · exact ignoresRight_raiseFault _ { s with offered := none }

theorem ignoresRight_fillStep (s : State) : IgnoresRight fillStep s := by
  simp only [IgnoresRight, fillStep, endFill]
  split_ifs
  · exact ⟨rfl, fun _ => rfl⟩
  · exact ⟨rfl, fun _ => rfl⟩
  · exact ignoresRight_takeInput s

theorem ignoresRight_decodeBlock (d : Decoder) (cap : Option Nat) (mod : Mod) {s : State} (hs : s.stereo = false) :
    IgnoresRight (decodeBlock d cap mod) s := by
  have hr (right : Memory F32) : responseOf d mod { s with audR := right } = responseOf d mod s := rfl
  have hs' (right : Memory F32) : State.stereo { s with audR := right } = false := hs
  simp only [IgnoresRight, decodeBlock, checkResponse, hr, hs, hs', Bool.false_and, Bool.false_eq_true, if_false]
  split_ifs
  · exact ignoresRight_raiseFault _ s
  · exact ⟨by simp [hs], fun right => by simp [acceptResponse, hs, hs']⟩

theorem ignoresRight_stageMono (s : State) : IgnoresRight stageMono s := by
  have hl (right : Memory F32) : State.audLAt { s with audR := right } = s.audLAt := rfl
  have hq (right : Memory F32) : State.cfgSq { s with audR := right } = s.cfgSq := rfl
  simp only [IgnoresRight, stageMono, quantize, hl, hq]
  split_ifs <;> exact ⟨rfl, fun _ => rfl⟩

theorem ignoresRight_acceptByte (s : State) : IgnoresRight acceptByte s := by
  have ho (right : Memory F32) : State.ostAt { s with audR := right } = s.ostAt := rfl
  simp only [IgnoresRight, acceptByte, ho]
  split_ifs <;> exact ⟨rfl, fun _ => rfl⟩

theorem ignoresRight_writeByte (s : State) : IgnoresRight writeByte s := by
  unfold IgnoresRight writeByte
  rcases ha : s.answer with _ | _ | _
  · simp [ha]
  · exact ignoresRight_acceptByte s
  · exact ignoresRight_raiseFault _ { s with answer := none }

theorem ignoresRight_emitStep {stage : State → State} {s : State} (hstage : IgnoresRight stage s) :
    IgnoresRight (emitStep stage) s := by
  simp only [IgnoresRight, emitStep]
  split_ifs
  · exact ignoresRight_writeByte s
  · exact hstage
  · exact ⟨rfl, fun _ => rfl⟩
  · exact ⟨rfl, fun _ => rfl⟩

/-- The eight Core operations of a mono run and their meanings. -/
theorem exec_monoRun {i : Instr} {s : State} (hs : s.stereo = false)
    (hi : i ∈ [.emitMono, .decodeAm, .decodeWbfm, .decodeNbfm, .normU8, .normI16, .readBlock, .check]) :
    ∃ f, (∀ u, exec i u = .next (f u)) ∧ IgnoresRight f s := by
  fin_cases hi
  · exact ⟨_, fun _ => rfl, ignoresRight_emitStep (ignoresRight_stageMono s)⟩
  · exact ⟨_, fun _ => rfl, ignoresRight_decodeBlock _ _ _ hs⟩
  · exact ⟨_, fun _ => rfl, ignoresRight_decodeBlock _ _ _ hs⟩
  · exact ⟨_, fun _ => rfl, ignoresRight_decodeBlock _ _ _ hs⟩
  · exact ⟨_, fun _ => rfl, rfl, fun _ => rfl⟩
  · exact ⟨_, fun _ => rfl, rfl, fun _ => rfl⟩
  · exact ⟨_, fun _ => rfl, ignoresRight_fillStep s⟩
  · exact ⟨_, fun _ => rfl, ignoresRight_checkConfig _ s⟩

/-- Settles O43: each meaning that a mono run selects ignores AUD_R. -/
theorem monoRunsIgnoreTheRightChannel : Obligations.MonoRunsIgnoreTheRightChannel := by
  unfold Obligations.MonoRunsIgnoreTheRightChannel
  intro i s t right hi hs hexec
  obtain ⟨f, hf, hkeep, hfree⟩ := exec_monoRun hs hi
  rw [hf] at hexec
  cases hexec
  exact ⟨hkeep, by rw [hf, hfree]⟩

/-! ### Runs -/

theorem run_succ {s t : State} (k : Nat) (h : step s = .next t) :
    Sys2Proof.core.run (k + 1) s = Sys2Proof.core.run k t := by
  have h : Sys2Proof.core.step s = .next t := h
  simp only [Host.Core.run, h]

/-- A run of at least one step that answers a next state begins with a step that answers one. -/
theorem run_succ_cases {k : Nat} {s t : State} (h : Sys2Proof.core.run (k + 1) s = .next t) :
    ∃ u, step s = .next u ∧ Sys2Proof.core.run k u = .next t := by
  cases hs : step s with
  | next u => exact ⟨u, rfl, run_succ k hs ▸ h⟩
  | fault r | refused r =>
    have hs : Sys2Proof.core.step s = _ := hs
    simp only [Host.Core.run, hs] at h
    cases h

theorem run_add {a : Nat} (b : Nat) {s t : State} (h : Sys2Proof.core.run a s = .next t) :
    Sys2Proof.core.run (a + b) s = Sys2Proof.core.run b t := by
  induction a generalizing s with
  | zero =>
    cases h
    rw [Nat.zero_add]
  | succ a ih =>
    obtain ⟨u, hs, h⟩ := run_succ_cases h
    rw [Nat.succ_add_eq_add_succ, Nat.add_succ, run_succ _ hs, ih h]

/-! ### STAGE -/

/-- STAGE of the run's channel count. -/
def stageFrame (s : State) : State := if s.stereo then stageStereo s else stageMono s

theorem emitStep_congr {stage stage' : State → State} {s : State} (h : stage s = stage' s) :
    emitStep stage s = emitStep stage' s := by
  simp only [emitStep, h]

/-- The Core's turn in EMIT, whose OSW selects the row of the channel count. -/
theorem coreTurn_emit {s : State} (hp : s.phase = .emit) (hn : s.cfgNch = 1 ∨ s.cfgNch = 2) :
    coreTurn s = .next (emitStep stageFrame s) := by
  rw [coreTurn, decodeOsw_osw, hp]
  rcases hn with hn | hn <;> rw [hn]
  · exact congrArg _ (emitStep_congr (by simp [stageFrame, State.stereo, hn]))
  · exact congrArg _ (emitStep_congr (by simp [stageFrame, State.stereo, hn]))

/-- The bytes of one frame whose samples are no NaN (spec/42_quantizer.md R164, R165). -/
def State.frameData (s : State) (k : Nat) : List Byte :=
  (s.frameSamples k).flatMap fun x => pcmBytes (s.sampleWord x)

/-- Two states with the same CFG and the same audio have the same frames. -/
structure SameFrames (s t : State) : Prop where
  cfg : t.cfg = s.cfg
  audL : t.audL = s.audL
  audR : t.audR = s.audR

theorem SameFrames.stereo {s t : State} (h : SameFrames s t) : t.stereo = s.stereo := by
  simp only [State.stereo, State.cfgNch, h.cfg]

theorem SameFrames.frameBytes {s t : State} (h : SameFrames s t) : t.frameBytes = s.frameBytes := by
  simp only [State.frameBytes, h.stereo]

theorem SameFrames.frameSamples {s t : State} (h : SameFrames s t) : t.frameSamples = s.frameSamples := by
  funext k
  simp only [State.frameSamples, State.audLAt, State.audRAt, h.stereo, h.audL, h.audR]

theorem SameFrames.blockBytes {s t : State} (h : SameFrames s t) : t.blockBytes = s.blockBytes := by
  funext first count
  simp only [State.blockBytes, h.frameSamples, State.sampleWord, State.cfgSq, h.cfg]

theorem frameBytes_pos (s : State) : 0 < s.frameBytes.toNat := by
  unfold State.frameBytes
  split_ifs <;> decide

theorem length_frameData (s : State) (k : Nat) : (s.frameData k).length = s.frameBytes.toNat := by
  unfold State.frameData State.frameSamples State.frameBytes
  split_ifs <;> rfl

theorem blockBytes_succ (s : State) (first count : Nat) :
    s.blockBytes first (count + 1) = s.frameData first ++ s.blockBytes (first + 1) count := by
  simp only [State.blockBytes, State.frameData, List.range_succ_eq_map, List.flatMap_cons, List.flatMap_map,
    Nat.add_zero, Nat.add_assoc, Nat.add_comm 1]

theorem length_blockBytes (s : State) (first count : Nat) :
    (s.blockBytes first count).length = s.frameBytes.toNat * count := by
  induction count generalizing first with
  | zero => rfl
  | succ count ih => rw [blockBytes_succ, List.length_append, length_frameData, ih, Nat.mul_succ, Nat.add_comm]

theorem quantize_of_not_nan {x : F32} (squared : Bool) (s : State) (h : isNaN x = false) :
    quantize squared x s = { s with qword := BitVec.ofInt 16 (quantValue squared x) } := by
  simp [quantize, h]

/-- The state after frame I, without a NaN, is staged; `q` is the word quantized last. -/
abbrev State.frameStaged (s : State) (q : PcmWord) (turns : List Turn) : State :=
  { s with
    ost := s.ost.writeFrom 0 (s.frameData s.i.toNat), olen := s.frameBytes, opos := 0, qword := q,
    schedule := turns }

/-- A frame without a NaN is staged as its PCM bytes; but for the word quantized last nothing else changes. -/
theorem stageFrame_of_not_nan {s : State} (h : ∀ x ∈ s.frameSamples s.i.toNat, isNaN x = false) :
    ∃ q, stageFrame s = s.frameStaged q s.schedule := by
  unfold stageFrame State.frameStaged State.frameData State.frameBytes
  unfold State.frameSamples at h ⊢
  split_ifs at h ⊢
  · simp only [List.mem_cons, List.not_mem_nil, or_false, forall_eq_or_imp, forall_eq] at h
    obtain ⟨hl, hr⟩ := h
    simp only [stageStereo, quantize_of_not_nan _ _ hl, quantize_of_not_nan _ _ hr]
    exact ⟨_, rfl⟩
  · simp only [List.mem_cons, List.not_mem_nil, or_false, forall_eq] at h
    simp only [stageMono, quantize_of_not_nan _ _ h]
    exact ⟨_, rfl⟩

/-! ### WRITE, byte after byte -/

/-- The bytes staged and not yet accepted. -/
def State.stagedBytes (s : State) : List Byte :=
  (List.range' s.opos.toNat (s.olen.toNat - s.opos.toNat)).map s.ostAt

theorem stagedBytes_cons {s : State} (h : s.opos < s.olen) :
    s.stagedBytes = s.ostAt s.opos.toNat :: State.stagedBytes { s with opos := s.opos + 1 } := by
  have hlen : s.olen.toNat - s.opos.toNat = s.olen.toNat - (s.opos + 1).toNat + 1 := by bv_omega
  have hpos : (s.opos + 1).toNat = s.opos.toNat + 1 := by bv_omega
  simp only [State.stagedBytes, hlen, List.range'_succ, List.map_cons, hpos]
  rfl

theorem stagedBytes_of_le {s : State} (h : s.olen ≤ s.opos) : s.stagedBytes = [] := by
  have hlen : s.olen.toNat - s.opos.toNat = 0 := by bv_omega
  simp [State.stagedBytes, hlen]

theorem stagedBytes_of_olen {s : State} (h : s.olen = 0) : s.stagedBytes = [] := by
  simp [State.stagedBytes, h]

/-- What STAGE puts into OST is what is then staged. -/
theorem stagedBytes_frameStaged (s : State) (q : PcmWord) (turns : List Turn) :
    (s.frameStaged q turns).stagedBytes = s.frameData s.i.toNat := by
  refine List.ext_getElem (by simp [State.stagedBytes, State.frameStaged, length_frameData]) fun j _ hj => ?_
  simp [State.stagedBytes, State.frameStaged, State.ostAt, read_writeFrom, hj]

theorem acceptByte_last {s : State} (h : s.opos + 1 = s.olen) : acceptByte s = { s with
    answer := none, outBytes := s.outBytes ++ [s.ostAt s.opos.toNat], outcnt := s.outcnt + 1,
    i := s.i + 1, olen := 0, opos := 0 } := if_pos h

theorem acceptByte_more {s : State} (h : s.opos + 1 ≠ s.olen) : acceptByte s = { s with
    answer := none, outBytes := s.outBytes ++ [s.ostAt s.opos.toNat], outcnt := s.outcnt + 1,
    opos := s.opos + 1 } := if_neg h

/-! ### Emitting a block -/

/-- A legal EMIT state in which the Consumer owes no answer. -/
structure Emitting (s : State) : Prop where
  phase : s.phase = .emit
  nch : s.cfgNch = 1 ∨ s.cfgNch = 2
  answer : s.answer = none

theorem Emitting.step_core {s : State} (h : Emitting s) {turns : List Turn} (hs : s.schedule = .core :: turns) :
    step s = .next (emitStep stageFrame { s with schedule := turns }) := by
  rw [step_of_schedule hs]
  exact coreTurn_emit h.phase h.nch

/-- An offered byte is accepted in two turns. -/
theorem Emitting.run_accept {s : State} (h : Emitting s) (ho : s.opos < s.olen) {later : List OutAnswer}
    {turns : List Turn} (k : Nat) (hq : s.consumerQ = .accept :: later)
    (hs : s.schedule = .consumer :: .core :: turns) :
    Sys2Proof.core.run (k + 2) s =
      Sys2Proof.core.run k (acceptByte { s with answer := none, consumerQ := later, schedule := turns }) := by
  obtain ⟨hanswers, -⟩ := consumerAnswersAnOfferedByte s _ hs
  have hcore : coreTurn { s with schedule := turns, answer := some .accept, consumerQ := later } =
      .next (acceptByte { s with schedule := turns, answer := some .accept, consumerQ := later }) := by
    rw [coreTurn_emit (by exact h.phase) (by exact h.nch)]
    exact congrArg _ (emitStep_write _ ho)
  rw [run_succ _ (hanswers _ _ ⟨h.phase, ho⟩ h.answer hq), run_succ _ (by rw [step_of_schedule rfl]; exact hcore)]
  rfl

/-- The state after the rest of a staged frame is accepted. -/
abbrev State.frameWritten (s : State) (later : List OutAnswer) (turns : List Turn) : State :=
  { s with
    answer := none, outBytes := s.outBytes ++ s.stagedBytes,
    outcnt := s.outcnt + BitVec.ofNat 32 s.stagedBytes.length, i := s.i + 1, olen := 0, opos := 0,
    consumerQ := later, schedule := turns }

/-- The bytes of a staged frame are accepted in order. -/
theorem Emitting.run_writeTurns (k : Nat) {s : State} (h : Emitting s) {later : List OutAnswer} {turns : List Turn}
    (hk : s.opos.toNat + (k + 1) = s.olen.toNat) (hq : s.consumerQ = List.replicate (k + 1) .accept ++ later)
    (hs : s.schedule = writeTurns (k + 1) ++ turns) :
    Sys2Proof.core.run (writeTurns (k + 1)).length s = .next (s.frameWritten later turns) := by
  have ho : s.opos < s.olen := by bv_omega
  induction k generalizing s with
  | zero =>
    have hl : s.opos + 1 = s.olen := by bv_omega
    have hb : s.stagedBytes = [s.ostAt s.opos.toNat] := by
      rw [stagedBytes_cons ho, stagedBytes_of_le (hl ▸ BitVec.le_refl _)]
    refine (h.run_accept ho 0 hq hs).trans ?_
    rw [acceptByte_last (by exact hl), State.frameWritten, hb]
    rfl
  | succ k ih =>
    have hl : s.opos + 1 ≠ s.olen := by bv_omega
    refine (h.run_accept ho _ hq hs).trans ?_
    rw [acceptByte_more (by exact hl)]
    have hpos : (s.opos + 1).toNat + (k + 1) = s.olen.toNat := by bv_omega
    have hlt : s.opos + 1 < s.olen := by bv_omega
    refine Eq.trans (ih { h with answer := rfl } hpos rfl rfl hlt) ?_
    simp only [State.frameWritten, stagedBytes_cons ho, List.length_cons, List.append_assoc, List.singleton_append,
      BitVec.ofNat_add, BitVec.add_assoc, BitVec.add_comm 1]
    rfl

/-- STAGE of a frame without a NaN, as a step. -/
theorem Emitting.step_stage {s : State} (h : Emitting s) (ho : s.olen = 0) (hi : s.i < s.m)
    (hnan : ∀ x ∈ s.frameSamples s.i.toNat, isNaN x = false) {turns : List Turn} (hs : s.schedule = .core :: turns) :
    ∃ q, step s = .next (s.frameStaged q turns) := by
  obtain ⟨q, e⟩ := stageFrame_of_not_nan (s := { s with schedule := turns }) hnan
  refine ⟨q, (h.step_core hs).trans (congrArg _ (Eq.trans ?_ e))⟩
  exact emitStep_stage _ ho hi

theorem Emitting.frameStaged {s : State} (h : Emitting s) (q : PcmWord) (turns : List Turn) :
    Emitting (s.frameStaged q turns) := ⟨h.phase, h.nch, h.answer⟩

/-- What a run that stages frame I and writes it leaves. -/
structure FrameEmitted (s t : State) (later : List OutAnswer) (turns : List Turn) : Prop where
  emitting : Emitting t
  frames : SameFrames s t
  olen : t.olen = 0
  i : t.i = s.i + 1
  m : t.m = s.m
  outBytes : t.outBytes = s.outBytes ++ s.frameData s.i.toNat
  outcnt : t.outcnt = s.outcnt + BitVec.ofNat 32 (s.frameData s.i.toNat).length
  qnan : t.qnan = s.qnan
  consumerQ : t.consumerQ = later
  schedule : t.schedule = turns
  incnt : t.incnt = s.incnt
  blkcnt : t.blkcnt = s.blkcnt
  dstate : t.dstate = s.dstate

theorem Emitting.frameEmitted {s : State} (h : Emitting s) (q : PcmWord) (turns : List Turn) (later : List OutAnswer)
    (turns' : List Turn) : FrameEmitted s ((s.frameStaged q turns).frameWritten later turns') later turns' where
  emitting := ⟨h.phase, h.nch, rfl⟩
  frames := ⟨rfl, rfl, rfl⟩
  olen := rfl
  i := rfl
  m := rfl
  outBytes := by rw [State.frameWritten, stagedBytes_frameStaged]
  outcnt := by rw [State.frameWritten, stagedBytes_frameStaged]
  qnan := rfl
  consumerQ := rfl
  schedule := rfl
  incnt := rfl
  blkcnt := rfl
  dstate := rfl

/-- A frame without a NaN is staged and accepted. -/
theorem Emitting.run_frame {s : State} (h : Emitting s) (ho : s.olen = 0) (hi : s.i < s.m)
    (hnan : ∀ x ∈ s.frameSamples s.i.toNat, isNaN x = false) {later : List OutAnswer} {turns : List Turn}
    (hq : s.consumerQ = List.replicate s.frameBytes.toNat .accept ++ later)
    (hs : s.schedule = .core :: (writeTurns s.frameBytes.toNat ++ turns)) :
    ∃ t, Sys2Proof.core.run ((writeTurns s.frameBytes.toNat).length + 1) s = .next t ∧
      FrameEmitted s t later turns := by
  obtain ⟨q, e⟩ := h.step_stage ho hi hnan hs
  obtain ⟨k, hk⟩ := Nat.exists_eq_add_one.2 (frameBytes_pos s)
  rw [run_succ _ e]
  rw [hk] at hq ⊢
  exact ⟨_, (h.frameStaged q _).run_writeTurns k ((Nat.zero_add _).trans hk.symm) hq rfl,
    h.frameEmitted q _ later turns⟩

/-- What a run that emits a block with these bytes leaves. -/
structure BlockEmitted (s t : State) (bytes : List Byte) (later : List OutAnswer) (turns : List Turn) : Prop where
  phase : t.phase = .read
  n : t.n = 0
  outBytes : t.outBytes = s.outBytes ++ bytes
  outcnt : t.outcnt = s.outcnt + BitVec.ofNat 32 bytes.length
  qnan : t.qnan = s.qnan
  consumerQ : t.consumerQ = later
  schedule : t.schedule = turns
  incnt : t.incnt = s.incnt
  blkcnt : t.blkcnt = s.blkcnt
  dstate : t.dstate = s.dstate

theorem blockEmitted_finishBlock (s : State) (turns : List Turn) :
    BlockEmitted s (finishBlock { s with schedule := turns }) [] s.consumerQ turns where
  phase := rfl
  n := rfl
  outBytes := (List.append_nil _).symm
  outcnt := by simp
  qnan := rfl
  consumerQ := rfl
  schedule := rfl
  incnt := rfl
  blkcnt := rfl
  dstate := rfl

theorem FrameEmitted.blockEmitted {s t u : State} {bytes : List Byte} {later later' : List OutAnswer}
    {turns turns' : List Turn} (h : FrameEmitted s t later' turns') (hb : BlockEmitted t u bytes later turns) :
    BlockEmitted s u (s.frameData s.i.toNat ++ bytes) later turns :=
  { hb with
    outBytes := by rw [hb.outBytes, h.outBytes, List.append_assoc]
    outcnt := by rw [hb.outcnt, h.outcnt, List.length_append, BitVec.ofNat_add, BitVec.add_assoc]
    qnan := hb.qnan.trans h.qnan
    incnt := hb.incnt.trans h.incnt
    blkcnt := hb.blkcnt.trans h.blkcnt
    dstate := hb.dstate.trans h.dstate }

/-- The frames of a block are emitted in order. -/
theorem Emitting.run_emitTurns (frames : Nat) {s : State} (h : Emitting s) (ho : s.olen = 0)
    (hf : s.i.toNat + frames = s.m.toNat)
    (hnan : ∀ k, s.i.toNat ≤ k → k < s.m.toNat → ∀ x ∈ s.frameSamples k, isNaN x = false)
    {later : List OutAnswer} {turns : List Turn}
    (hq : s.consumerQ = List.replicate (s.frameBytes.toNat * frames) .accept ++ later)
    (hs : s.schedule = emitTurns s.frameBytes.toNat frames ++ turns) :
    ∃ t, Sys2Proof.core.run (emitTurns s.frameBytes.toNat frames).length s = .next t ∧
      BlockEmitted s t (s.blockBytes s.i.toNat frames) later turns := by
  induction frames generalizing s with
  | zero =>
    have hi : s.i = s.m := by bv_omega
    have hlater : s.consumerQ = later := by simpa using hq
    refine ⟨finishBlock { s with schedule := turns }, ?_, hlater ▸ blockEmitted_finishBlock s turns⟩
    refine (run_succ 0 (h.step_core hs)).trans (congrArg _ ?_)
    exact emitStep_finish _ ho hi
  | succ frames ih =>
    have hi : s.i < s.m := by bv_omega
    have hnext : (s.i + 1).toNat = s.i.toNat + 1 := by bv_omega
    obtain ⟨t, e, ht⟩ := h.run_frame ho hi (hnan _ (Nat.le_refl _) hi)
      (later := List.replicate (s.frameBytes.toNat * frames) .accept ++ later)
      (turns := emitTurns s.frameBytes.toNat frames ++ turns)
      (by rw [hq, Nat.mul_succ, Nat.add_comm, List.replicate_add, List.append_assoc])
      (by rw [hs, emitTurns, List.cons_append, List.append_assoc])
    have hrest := ih ht.emitting ht.olen (by rw [ht.i, ht.m]; omega)
      (by rw [ht.i, ht.m, ht.frames.frameSamples]; exact fun k hk => hnan k (by omega))
      (by rw [ht.consumerQ, ht.frames.frameBytes]) (by rw [ht.schedule, ht.frames.frameBytes])
    rw [ht.frames.frameBytes, ht.frames.blockBytes, ht.i, hnext] at hrest
    obtain ⟨u, erest, hu⟩ := hrest
    rw [emitTurns, List.length_cons, List.length_append, Nat.add_right_comm, run_add _ e, blockBytes_succ]
    exact ⟨u, erest, ht.blockEmitted hu⟩

/-- Settles O24, by induction on the frames: each is staged and its bytes are accepted, and FINISH ends the block. -/
theorem emittingABlockWritesItsFramesInOrder : Obligations.EmittingABlockWritesItsFramesInOrder := by
  unfold Obligations.EmittingABlockWritesItsFramesInOrder
  intro s later rest hp hn ho _ ha hi hnan frames bytes hq hs
  have hframes : s.i.toNat + frames = s.m.toNat := Nat.add_sub_of_le hi
  obtain ⟨t, e, ht⟩ := Emitting.run_emitTurns frames ⟨hp, hn, ha⟩ ho hframes hnan hq hs
  refine ⟨t, e, ht.phase, ht.n, ht.outBytes, ?_, ht.qnan, ht.consumerQ, ht.schedule, ht.incnt, ht.blkcnt, ht.dstate⟩
  rw [ht.outcnt, length_blockBytes]

/-! ### Blocks and their samples -/

theorem blocksOf_nil (size : Nat) : blocksOf size [] = [] := by
  simp [blocksOf, Nat.eq_zero_or_pos]

/-- A full block, or the short one at the end of the input, comes first. -/
theorem blocksOf_append {size : Nat} {block rest : List Byte} (hne : block ≠ [])
    (hfull : block.length = size ∨ block.length ≤ size ∧ rest = []) :
    blocksOf size (block ++ rest) = block :: blocksOf size rest := by
  have hpos : 0 < block.length := List.length_pos_of_ne_nil hne
  rcases hfull with rfl | ⟨hle, rfl⟩
  · have hcount : ((block ++ rest).length + block.length - 1) / block.length =
        (rest.length + block.length - 1) / block.length + 1 := by
      rw [List.length_append, ← Nat.add_div_right _ hpos]
      congr 1
      omega
    rw [blocksOf, hcount, List.range_succ_eq_map, List.map_cons, List.map_map, blocksOf]
    congr 1
    · simp
    · refine List.map_congr_left fun k _ => ?_
      rw [Function.comp_apply, Nat.mul_succ, Nat.add_comm, List.drop_length_add_append]
  · have hcount : (block.length + size - 1) / size = 1 := by
      rw [Nat.div_eq_iff (by omega)]
      omega
    rw [blocksOf_nil, List.append_nil]
    simp [blocksOf, hcount, List.take_of_length_le hle]

/-- What is read back after a sequence is written from 0 is its beginning. -/
theorem map_read_writeFrom {α : Type} (mem : Memory α) (vs : List α) (free : Nat → α) {m : Nat} (hm : m ≤ vs.length) :
    (List.range m).map (fun k => ((mem.writeFrom 0 vs).read k).getD (free k)) = vs.take m := by
  refine List.ext_getElem (by simp [hm]) fun j hj _ => ?_
  have hj : j < m := by simpa using hj
  simp [read_writeFrom, hj.trans_le hm]

/-- The bytes of the fill, in the order of RAW. -/
def State.rawBytes (s : State) : List Byte := (List.range s.n.toNat).map s.rawAt

@[simp] theorem length_rawBytes (s : State) : s.rawBytes.length = s.n.toNat := by simp [State.rawBytes]

theorem rawBytes_of_empty {s : State} (hn : s.n = 0) : s.rawBytes = [] := by simp [State.rawBytes, hn]

theorem getD_rawBytes {s : State} {k : Nat} (hk : k < s.n.toNat) : s.rawBytes.getD k 0 = s.rawAt k := by
  simp [State.rawBytes, List.getD_eq_getElem?_getD, hk]

theorem rawBytes_of_write {s t : State} {b : Byte} (hn : t.n.toNat = s.n.toNat + 1)
    (hraw : t.raw = s.raw.write s.n.toNat b) : t.rawBytes = s.rawBytes ++ [b] := by
  rw [State.rawBytes, hn, List.range_succ, List.map_append, State.rawBytes]
  congr 1
  · refine List.map_congr_left fun k hk => ?_
    rw [State.rawAt, hraw, read_write_other _ _ (List.mem_range.1 hk).ne, State.rawAt]
  · simp [State.rawAt, hraw]

theorem samples_storeNormalized (count : Word) (value : Nat → F32) (s : State) :
    (storeNormalized count value s).samples = (List.range count.toNat).map value := by
  have h := map_read_writeFrom s.norm ((List.range count.toNat).map value) (Config.unwrittenF32 .norm)
    (m := count.toNat) (by simp)
  rw [List.take_of_length_le (by simp)] at h
  exact h

/-- NORM.U8 gives the samples of the block (spec/40_normalizer.md R120). -/
theorem samples_normU8 (s : State) :
    (storeNormalized s.n (fun k => normU8Value (u8Sample s k)) s).samples = blockSamples false s.rawBytes := by
  rw [samples_storeNormalized, blockSamples, State.rawBytes, if_neg (by simp), List.map_map]
  simp only [Function.comp_def, u8Sample]

/-- NORM.I16 gives the samples of the block (spec/40_normalizer.md R121). -/
theorem samples_normI16 (s : State) :
    (storeNormalized (s.n / 2) (fun k => normI16Value (i16Sample s k)) s).samples = blockSamples true s.rawBytes := by
  have hcount : (s.n / 2).toNat = s.n.toNat / 2 := by simp
  rw [samples_storeNormalized, blockSamples, if_pos rfl, length_rawBytes, hcount]
  refine List.map_congr_left fun k hk => ?_
  have hk : k < s.n.toNat / 2 := List.mem_range.1 hk
  rw [i16Sample, getD_rawBytes (by omega), getD_rawBytes (by omega)]

theorem map_audLAt_acceptResponse (r : Response) (s : State) :
    (List.range (frameCount r.left.length).toNat).map (acceptResponse r s).audLAt =
      r.left.take (frameCount r.left.length).toNat :=
  map_read_writeFrom s.audL r.left (Config.unwrittenF32 .audL) (frameCount_le _)

theorem map_audRAt_acceptResponse {r : Response} {s : State} (hs : s.stereo = true) {right : List F32}
    (hr : r.right = some right) (hlen : right.length = r.left.length) :
    (List.range (frameCount r.left.length).toNat).map (acceptResponse r s).audRAt =
      right.take (frameCount r.left.length).toNat := by
  have hread : (acceptResponse r s).audRAt =
      fun k => ((s.audR.writeFrom 0 right).read k).getD (Config.unwrittenF32 .audR k) := by
    funext k
    simp [State.audRAt, hs, hr]
  rw [hread, map_read_writeFrom _ _ _ (hlen ▸ frameCount_le _)]

/-- The frames of an accepted response are emitted as its PCM output block (spec/20_memory.md R81). -/
theorem blockBytes_acceptResponse {r : Response} {s : State} (hfit : s.stereo = true → rightFits r = true) :
    (acceptResponse r s).blockBytes 0 (acceptResponse r s).m.toNat = responseBytes s.cfgSq s.stereo r := by
  have hL := map_audLAt_acceptResponse r s
  have hst : (acceptResponse r s).stereo = s.stereo := rfl
  have hsq : (acceptResponse r s).cfgSq = s.cfgSq := rfl
  unfold State.blockBytes State.frameSamples responseBytes State.sampleWord
  rw [hst, hsq, acceptResponse_m]
  cases hs : s.stereo with
  | false => simp [← hL, List.flatMap_map]
  | true =>
    obtain ⟨right, hr, hlen⟩ := (rightFits_iff r).1 (hfit hs)
    have hR := map_audRAt_acceptResponse hs hr hlen
    have hpairs : (r.left.zip right).take (frameCount r.left.length).toNat =
        (List.range (frameCount r.left.length).toNat).map
          fun j => ((acceptResponse r s).audLAt j, (acceptResponse r s).audRAt j) := by
      rw [List.zip, List.take_zipWith, ← hL, ← hR]
      exact List.zip_map'
    simp [hr, hpairs, List.flatMap_map]

/-! ### The output still owed -/

/-- The output of a sequence of blocks in the run's configuration. -/
def State.outputFrom (s : State) (mod : Mod) (ds : DecState) (blocks : List (List Byte)) : List Byte :=
  outputOf Config.decoder mod (s.cfgEnc == 1) s.cfgSq s.stereo ds blocks

/-- The first frame of the block that is not staged yet. -/
def State.nextFrame (s : State) : Nat := if s.olen = 0 then s.i.toNat else s.i.toNat + 1

/-- The output of the block that is staged or still to be staged. -/
def State.blockLeft (s : State) : List Byte :=
  s.stagedBytes ++ s.blockBytes s.nextFrame (s.m.toNat - s.nextFrame)

/-- The output of a block whose decoder call returned `r`, and of the input after it. -/
def State.outputOfResponse (s : State) (mod : Mod) (r : Response) (untaken : List Byte) : List Byte :=
  responseBytes s.cfgSq s.stereo r ++ s.outputFrom mod r.next (blocksOf s.blksz.toNat untaken)

/-- The output that a run without a NaN has still to write when `untaken` is the input it has not taken: what it
has of the present block, in the form of the phase, and then the blocks that follow. -/
def State.owed (s : State) (mod : Mod) (untaken : List Byte) : List Byte :=
  match s.phase with
  | .read => s.outputFrom mod s.decoderState (blocksOf s.blksz.toNat (s.rawBytes ++ untaken))
  | .norm => s.outputFrom mod s.decoderState (s.rawBytes :: blocksOf s.blksz.toNat untaken)
  | .decode => s.outputOfResponse mod (responseOf Config.decoder mod s) untaken
  | .emit => s.blockLeft ++ s.outputFrom mod s.decoderState (blocksOf s.blksz.toNat untaken)
  | .idle | .check | .done | .fault => []

section Owed

variable {s : State} (mod : Mod) (untaken : List Byte)

theorem owed_read (hp : s.phase = .read) :
    s.owed mod untaken = s.outputFrom mod s.decoderState (blocksOf s.blksz.toNat (s.rawBytes ++ untaken)) := by
  simp only [State.owed, hp]

theorem owed_norm (hp : s.phase = .norm) :
    s.owed mod untaken = s.outputFrom mod s.decoderState (s.rawBytes :: blocksOf s.blksz.toNat untaken) := by
  simp only [State.owed, hp]

theorem owed_decode (hp : s.phase = .decode) :
    s.owed mod untaken = s.outputOfResponse mod (responseOf Config.decoder mod s) untaken := by
  simp only [State.owed, hp]

theorem owed_emit (hp : s.phase = .emit) :
    s.owed mod untaken =
      s.blockLeft ++ s.outputFrom mod s.decoderState (blocksOf s.blksz.toNat untaken) := by
  simp only [State.owed, hp]

theorem owed_done (hp : s.phase = .done) : s.owed mod untaken = [] := by
  simp only [State.owed, hp]

end Owed

/-! What is left of a block, from its response to its last byte. -/

theorem blockLeft_acceptResponse {s : State} {r : Response} (hfit : s.stereo = true → rightFits r = true) :
    (acceptResponse r s).blockLeft = responseBytes s.cfgSq s.stereo r := by
  rw [State.blockLeft, stagedBytes_of_olen (by simp), State.nextFrame, if_pos (by simp),
    ← blockBytes_acceptResponse hfit]
  rfl

theorem blockLeft_frameStaged {s : State} (ho : s.olen = 0) (hi : s.i < s.m) (q : PcmWord) (turns : List Turn) :
    (s.frameStaged q turns).blockLeft = s.blockLeft := by
  have hframe : s.frameBytes ≠ 0 := fun h0 => by simpa [h0] using frameBytes_pos s
  have hleft : s.m.toNat - s.i.toNat = s.m.toNat - (s.i.toNat + 1) + 1 := by bv_omega
  rw [State.blockLeft, State.blockLeft, stagedBytes_frameStaged, stagedBytes_of_olen ho,
    State.nextFrame, if_neg (by exact hframe), State.nextFrame, if_pos ho, hleft, blockBytes_succ]
  rfl

theorem blockLeft_of_byte {s : State} (ho : s.opos < s.olen) :
    s.blockLeft = s.ostAt s.opos.toNat :: State.blockLeft { s with opos := s.opos + 1 } := by
  rw [State.blockLeft, stagedBytes_cons ho]
  rfl

theorem blockLeft_of_last_byte {s : State} (ho : s.opos < s.olen) (hl : s.opos + 1 = s.olen) (hi : s.i < s.m) :
    s.blockLeft = s.ostAt s.opos.toNat :: State.blockLeft { s with i := s.i + 1, olen := 0, opos := 0 } := by
  have hne : s.olen ≠ 0 := fun h0 => by simp [h0] at ho
  have hnext : (s.i + 1).toNat = s.i.toNat + 1 := by bv_omega
  rw [State.blockLeft, stagedBytes_cons ho, stagedBytes_of_le (hl ▸ BitVec.le_refl _), State.nextFrame, if_neg hne,
    ← hnext]
  rfl

theorem blockLeft_of_finished {s : State} (ho : s.olen = 0) (hi : s.i = s.m) : s.blockLeft = [] := by
  rw [State.blockLeft, stagedBytes_of_olen ho, State.nextFrame, if_pos ho, hi, Nat.sub_self]
  rfl

/-- The six configuration registers are the same. -/
structure SameConfig (s t : State) : Prop where
  cfg : t.cfg = s.cfg
  blksz : t.blksz = s.blksz
  inRate : t.inRate = s.inRate
  outRate : t.outRate = s.outRate
  bandwidth : t.bandwidth = s.bandwidth
  maxDev : t.maxDev = s.maxDev

theorem SameConfig.outputFrom {s t : State} (h : SameConfig s t) : t.outputFrom = s.outputFrom := by
  funext mod ds blocks
  simp only [State.outputFrom, State.cfgEnc, State.cfgSq, State.stereo, State.cfgNch, h.cfg]

theorem SameConfig.initParams {s t : State} (h : SameConfig s t) : t.initParams = s.initParams := by
  simp only [State.initParams, h.inRate, h.outRate, h.bandwidth, h.maxDev]

/-- The whole output of the run on an input. -/
def State.wholeOutput (s : State) (mod : Mod) (input : List Byte) : List Byte :=
  s.outputFrom mod (Config.decoder.init mod s.initParams) (blocksOf s.blksz.toNat input)

theorem SameConfig.wholeOutput {s t : State} (h : SameConfig s t) : t.wholeOutput = s.wholeOutput := by
  funext mod input
  simp only [State.wholeOutput, h.outputFrom, h.initParams, h.blksz]

/-- What is written and what is owed make up the output of the run. -/
def State.OnCourse (s : State) (input untaken : List Byte) : Prop :=
  ∃ mod, modOf s.cfgMod = some mod ∧ s.outBytes ++ s.owed mod untaken = s.wholeOutput mod input

/-- A step that keeps the configuration, and the sum of what is written and what is owed. -/
theorem State.OnCourse.step {s t : State} {input untaken untaken' : List Byte} (h : s.OnCourse input untaken)
    (hc : SameConfig s t)
    (hk : ∀ mod, modOf s.cfgMod = some mod →
      t.outBytes ++ t.owed mod untaken' = s.outBytes ++ s.owed mod untaken) :
    t.OnCourse input untaken' := by
  obtain ⟨mod, hm, e⟩ := h
  exact ⟨mod, by rw [State.cfgMod, hc.cfg]; exact hm, by rw [hk mod hm, e, hc.wholeOutput]⟩

/-- What a run without a reset keeps from its start on, where `untaken` is the input it has not taken. -/
structure Progress (input : List Byte) (later : List InItem) (untaken : List Byte) (s : State) : Prop where
  plans : noReset s.schedule s.hostQ
  /-- The Producer's items in order (spec/20_memory.md R66). -/
  stream : (s.eos = false ∧ s.offered.toList ++ s.producerQ = untaken.map .byte ++ .eos :: later) ∨
    (s.eos = true ∧ untaken = [])
  fresh : s.phase = .idle ∨ s.phase = .check → s.outBytes = [] ∧ untaken = input
  onCourse : s.phase.afterCheck = true → s.qnan = false → s.OnCourse input untaken

section Progress

variable {input untaken : List Byte} {later : List InItem} {s : State}

/-! ### CHECK -/

theorem Progress.raiseFault (h : Progress input later untaken s) (c : ErrCode) :
    Progress input later untaken (raiseFault c s) :=
  { h with
    fresh := nofun
    onCourse := nofun }

theorem Progress.run_started (h : Progress input later untaken s) (hp : s.phase = .check) {mod : Mod}
    (hm : modOf s.cfgMod = some mod) :
    Progress input later untaken { constructDecoder Config.decoder mod s with n := 0, phase := .read } :=
  { h with
    fresh := nofun
    onCourse := fun _ _ => by
      obtain ⟨hout, rfl⟩ := h.fresh (.inr hp)
      refine ⟨mod, hm, ?_⟩
      rw [owed_read mod _ rfl, rawBytes_of_empty rfl, List.nil_append]
      exact congrArg (· ++ _) hout }

theorem Progress.checkConfig (h : Progress input later untaken s) (hp : s.phase = .check) :
    Progress input later untaken (checkConfig Config.decoder s) := by
  rcases checkConfig_cases Config.decoder s with
    ⟨-, e⟩ | ⟨-, -, e⟩ | ⟨-, -, -, e⟩ | ⟨-, -, -, -, e⟩ | ⟨mod, hm, -, e⟩ <;> rw [e]
  · exact h.raiseFault _
  · exact h.raiseFault _
  · exact h.raiseFault _
  · exact h.raiseFault _
  · exact h.run_started hp hm

/-! ### The fill -/

theorem Progress.untaken_of_eos (h : Progress input later untaken s) (he : s.eos = true) : untaken = [] := by
  rcases h.stream with ⟨he', -⟩ | ⟨-, hu⟩
  · simp [he] at he'
  · exact hu

theorem Progress.untaken_of_offered (h : Progress input later untaken s) (he : s.eos = false) {x : InItem}
    (hx : s.offered = some x) : x :: s.producerQ = untaken.map .byte ++ .eos :: later := by
  rcases h.stream with ⟨-, hq⟩ | ⟨he', -⟩
  · simpa [hx] using hq
  · simp [he] at he'

theorem Progress.fill_done (h : Progress input later untaken s) (hinv : StateInv s) (hp : s.phase = .read)
    (hend : s.n = s.blksz ∨ s.eos = true) (hn : s.n = 0) :
    Progress input later untaken { s with lastn := s.n, phase := .done, oclosed := true } :=
  { h with
    fresh := nofun
    onCourse := fun _ hq => by
      obtain ⟨-, -, -, hblk, -⟩ := hinv.registers.legal (by rw [hp]; rfl)
      have heos : s.eos = true := hend.resolve_left fun hb => by simp [← hb, hn] at hblk
      refine (h.onCourse (by rw [hp]; rfl) hq).step ⟨rfl, rfl, rfl, rfl, rfl, rfl⟩ fun mod _ => ?_
      rw [owed_read mod _ hp, rawBytes_of_empty hn, h.untaken_of_eos heos, List.append_nil, blocksOf_nil]
      rfl }

theorem Progress.fill_norm (h : Progress input later untaken s) (hinv : StateInv s) (hp : s.phase = .read)
    (hend : s.n = s.blksz ∨ s.eos = true) (hn : s.n ≠ 0) :
    Progress input later untaken { s with lastn := s.n, phase := .norm } :=
  { h with
    fresh := nofun
    onCourse := fun _ hq => by
      have hne : s.rawBytes ≠ [] := fun hb => hn (BitVec.eq_of_toNat_eq (by simpa using congrArg List.length hb))
      have hfull : s.rawBytes.length = s.blksz.toNat ∨ s.rawBytes.length ≤ s.blksz.toNat ∧ untaken = [] := by
        rw [length_rawBytes]
        exact hend.imp (congrArg _) fun he => ⟨hinv.buffers.nBound.1, h.untaken_of_eos he⟩
      refine (h.onCourse (by rw [hp]; rfl) hq).step ⟨rfl, rfl, rfl, rfl, rfl, rfl⟩ fun mod _ => ?_
      rw [owed_read mod _ hp, blocksOf_append hne hfull]
      rfl }

theorem Progress.byte_taken {b : Byte} (h : Progress input later (b :: untaken) s) (hinv : StateInv s)
    (hp : s.phase = .read) (hn : s.n ≠ s.blksz) (he : s.eos = false) (hx : s.offered = some (.byte b)) :
    Progress input later untaken
      { s with offered := none, raw := s.raw.write s.n.toNat b, n := s.n + 1, incnt := s.incnt + 1 } :=
  { h with
    stream := by
      have hq := h.untaken_of_offered he hx
      exact .inl ⟨he, (List.cons.inj hq).2⟩
    fresh := fun hp' => by simp [hp] at hp'
    onCourse := fun hc hq => by
      obtain ⟨hlt, -⟩ := hinv.room_in_fill hp hn
      refine (h.onCourse hc hq).step ⟨rfl, rfl, rfl, rfl, rfl, rfl⟩ fun mod _ => ?_
      have hraw := rawBytes_of_write (s := s) (b := b)
        (t := { s with offered := none, raw := s.raw.write s.n.toNat b, n := s.n + 1, incnt := s.incnt + 1 })
        (by bv_omega) rfl
      refine congrArg (s.outBytes ++ ·) ((owed_read mod _ (by exact hp)).trans ?_)
      rw [hraw, List.append_assoc, owed_read mod _ hp]
      rfl }

theorem Progress.fillStep (h : Progress input later untaken s) (hinv : StateInv s) (hp : s.phase = .read) :
    ∃ untaken', Progress input later untaken' (fillStep s) := by
  rcases fillStep_cases s with
    ⟨hend, hn, e⟩ | ⟨hend, hn, e⟩ | ⟨-, -, -, e⟩ | ⟨b, hn, he, hx, e⟩ | ⟨-, he, hx, e⟩ | ⟨-, he, hx, e⟩ <;> rw [e]
  · exact ⟨_, h.fill_done hinv hp hend hn⟩
  · exact ⟨_, h.fill_norm hinv hp hend hn⟩
  · exact ⟨_, h⟩
  · have hq := h.untaken_of_offered he hx
    cases untaken with
    | nil => simp at hq
    | cons b' rest =>
      obtain ⟨rfl⟩ : b = b' := by simpa using (List.cons.inj hq).1
      exact ⟨rest, h.byte_taken hinv hp hn he hx⟩
  · have hq := h.untaken_of_offered he hx
    cases untaken with
    | nil => exact ⟨[], { h with stream := .inr ⟨rfl, rfl⟩ }⟩
    | cons b rest => simp at hq
  · have hq := h.untaken_of_offered he hx
    cases untaken <;> simp at hq

/-! ### The normalizer and the decoder call -/

/-- The samples of a block go to the decoder with the state of the call before it. -/
theorem Progress.storeNormalized (h : Progress input later untaken s) (hp : s.phase = .norm) (count : Word)
    {value : Nat → F32}
    (hv : (storeNormalized count value s).samples = blockSamples (s.cfgEnc == 1) s.rawBytes) :
    Progress input later untaken (storeNormalized count value s) :=
  { h with
    fresh := nofun
    onCourse := fun _ hq => by
      refine (h.onCourse (by rw [hp]; rfl) hq).step ⟨rfl, rfl, rfl, rfl, rfl, rfl⟩ fun mod _ => ?_
      refine congrArg (s.outBytes ++ ·) ((owed_decode mod _ rfl).trans ?_)
      rw [owed_norm mod _ hp, responseOf, hv]
      rfl }

theorem Progress.acceptResponse (h : Progress input later untaken s) (hp : s.phase = .decode) {mod : Mod}
    (hm : modOf s.cfgMod = some mod)
    (hfit : s.stereo = true → rightFits (responseOf Config.decoder mod s) = true) :
    Progress input later untaken (acceptResponse (responseOf Config.decoder mod s) s) :=
  { h with
    fresh := nofun
    onCourse := fun _ hq => by
      refine (h.onCourse (by rw [hp]; rfl) hq).step ⟨rfl, rfl, rfl, rfl, rfl, rfl⟩ fun mod' hm' => ?_
      cases hm.symm.trans hm'
      refine congrArg (s.outBytes ++ ·) ((owed_emit mod _ rfl).trans ?_)
      rw [owed_decode mod _ hp, blockLeft_acceptResponse hfit]
      rfl }

theorem Progress.decodeBlock (h : Progress input later untaken s) (hp : s.phase = .decode) {mod : Mod}
    (hm : modOf s.cfgMod = some mod) :
    Progress input later untaken (decodeBlock Config.decoder Config.maxFrames mod s) := by
  unfold Machine.decodeBlock
  rcases checkResponse_cases Config.maxFrames (responseOf Config.decoder mod s) s with
    ⟨-, e⟩ | ⟨-, -, -, e⟩ | ⟨-, hfit, e⟩ <;> rw [e]
  · exact h.raiseFault _
  · exact h.raiseFault _
  · exact h.acceptResponse hp hm hfit

/-! ### The emitter -/

/-- STAGE changes nothing but OST, OLEN, OPOS, QNAN, `qword` and `draws`. -/
theorem stageFrame_frame (s : State) : ∃ ost olen qword draws, stageFrame s = { s with
    ost := ost, olen := olen, opos := 0, qnan := (stageFrame s).qnan, qword := qword, draws := draws } := by
  unfold stageFrame
  split_ifs
  · obtain ⟨ql, e⟩ := stageStereo_frame s
    exact ⟨_, _, _, _, e⟩
  · exact ⟨_, _, _, _, stageMono_frame s⟩

theorem stageFrame_qnan (s : State) :
    (stageFrame s).qnan = (s.qnan || (s.frameSamples s.i.toNat).any isNaN) := by
  unfold stageFrame State.frameSamples
  split_ifs
  · simp [stageStereo, Bool.or_assoc]
  · simp [stageMono]

theorem Progress.frameStaged (h : Progress input later untaken s) (hp : s.phase = .emit) (ho : s.olen = 0)
    (hi : s.i < s.m) (q : PcmWord) : Progress input later untaken (s.frameStaged q s.schedule) :=
  { h with
    onCourse := fun hc hq => by
      refine (h.onCourse hc hq).step ⟨rfl, rfl, rfl, rfl, rfl, rfl⟩ fun mod _ => ?_
      refine congrArg (s.outBytes ++ ·) ((owed_emit mod _ (by exact hp)).trans ?_)
      rw [owed_emit mod _ hp, blockLeft_frameStaged ho hi]
      rfl }

/-- A frame with a NaN sets QNAN, and then nothing is claimed of the output. -/
theorem Progress.stageFrame (h : Progress input later untaken s) (hp : s.phase = .emit) (ho : s.olen = 0)
    (hi : s.i < s.m) : Progress input later untaken (stageFrame s) := by
  cases hnan : (s.frameSamples s.i.toNat).any isNaN with
  | false =>
    obtain ⟨q, e⟩ := stageFrame_of_not_nan (s := s) (by simpa using hnan)
    rw [e]
    exact h.frameStaged hp ho hi q
  | true =>
    have hset : (Machine.stageFrame s).qnan = true := by rw [stageFrame_qnan, hnan, Bool.or_true]
    obtain ⟨ost, olen, qword, draws, e⟩ := stageFrame_frame s
    rw [e, hset]
    exact { h with onCourse := nofun }

theorem Progress.byte_written (h : Progress input later untaken s) (hp : s.phase = .emit) (ho : s.opos < s.olen) :
    Progress input later untaken { s with
      answer := none, outBytes := s.outBytes ++ [s.ostAt s.opos.toNat], outcnt := s.outcnt + 1,
      opos := s.opos + 1 } :=
  { h with
    fresh := fun hp' => by simp [hp] at hp'
    onCourse := fun hc hq => by
      refine (h.onCourse hc hq).step ⟨rfl, rfl, rfl, rfl, rfl, rfl⟩ fun mod _ => ?_
      refine (congrArg _ (owed_emit mod _ (by exact hp))).trans ?_
      rw [owed_emit mod _ hp, blockLeft_of_byte ho, List.append_assoc]
      rfl }

theorem Progress.frame_written (h : Progress input later untaken s) (hp : s.phase = .emit) (ho : s.opos < s.olen)
    (hl : s.opos + 1 = s.olen) (hi : s.i < s.m) :
    Progress input later untaken { s with
      answer := none, outBytes := s.outBytes ++ [s.ostAt s.opos.toNat], outcnt := s.outcnt + 1, i := s.i + 1,
      olen := 0, opos := 0 } :=
  { h with
    fresh := fun hp' => by simp [hp] at hp'
    onCourse := fun hc hq => by
      refine (h.onCourse hc hq).step ⟨rfl, rfl, rfl, rfl, rfl, rfl⟩ fun mod _ => ?_
      refine (congrArg _ (owed_emit mod _ (by exact hp))).trans ?_
      rw [owed_emit mod _ hp, blockLeft_of_last_byte ho hl hi, List.append_assoc]
      rfl }

theorem Progress.writeByte (h : Progress input later untaken s) (hinv : StateInv s) (hp : s.phase = .emit)
    (ho : s.opos < s.olen) : Progress input later untaken (writeByte s) := by
  rcases writeByte_cases s with ⟨-, e⟩ | ⟨-, hl, e⟩ | ⟨-, -, e⟩ | ⟨-, e⟩ <;> rw [e]
  · exact h
  · exact h.frame_written hp ho hl (hinv.frame_staged ho).2
  · exact h.byte_written hp ho
  · exact Progress.raiseFault (s := { s with answer := none }) { h with } _

theorem Progress.finishBlock (h : Progress input later untaken s) (hp : s.phase = .emit) (ho : s.olen = 0)
    (hi : s.i = s.m) : Progress input later untaken (finishBlock s) :=
  { h with
    fresh := nofun
    onCourse := fun _ hq => by
      refine (h.onCourse (by rw [hp]; rfl) hq).step ⟨rfl, rfl, rfl, rfl, rfl, rfl⟩ fun mod _ => ?_
      refine congrArg (s.outBytes ++ ·) ((owed_read mod _ rfl).trans ?_)
      rw [owed_emit mod _ hp, blockLeft_of_finished ho hi, rawBytes_of_empty rfl]
      rfl }

theorem Progress.emitStep (h : Progress input later untaken s) (hinv : StateInv s) (hp : s.phase = .emit) :
    Progress input later untaken (emitStep Machine.stageFrame s) := by
  rcases emitStep_cases Machine.stageFrame s with ⟨ho, e⟩ | ⟨ho, hi, e⟩ | ⟨ho, hi, e⟩ | ⟨-, -, e⟩ <;> rw [e]
  · exact h.writeByte hinv hp ho
  · exact h.stageFrame hp ho hi
  · exact h.finishBlock hp ho hi
  · exact h

theorem Progress.coreTurn {t : State} (h : Progress input later untaken s) (hinv : StateInv s)
    (e : coreTurn s = .next t) : ∃ untaken', Progress input later untaken' t := by
  rcases coreTurn_cases e with ⟨-, rfl⟩ | ⟨hp, rfl⟩ | ⟨hp, rfl⟩ | ⟨hp, henc, rfl⟩ | ⟨hp, henc, rfl⟩ |
    ⟨mod, hp, hm, rfl⟩ | ⟨hp, hn, -⟩ | ⟨hp, hn, -⟩ | ⟨hp, h1, h2, -⟩
  · exact ⟨_, h⟩
  · exact ⟨_, h.checkConfig hp⟩
  · exact h.fillStep hinv hp
  · exact ⟨_, h.storeNormalized hp _ (by rw [samples_normU8, henc]; rfl)⟩
  · exact ⟨_, h.storeNormalized hp _ (by rw [samples_normI16, henc]; rfl)⟩
  · exact ⟨_, h.decodeBlock hp hm⟩
  · cases (coreTurn_emit hp (.inl hn)).symm.trans e
    exact ⟨_, h.emitStep hinv hp⟩
  · cases (coreTurn_emit hp (.inr hn)).symm.trans e
    exact ⟨_, h.emitStep hinv hp⟩
  · exact ((hinv.nch_of_emit hp).elim h1 h2).elim

/-! ### The agents -/

theorem Progress.afterTurn (h : Progress input later untaken s) : Progress input later untaken s.afterTurn :=
  { h with plans := ⟨fun hr => h.plans.1 (List.mem_of_mem_tail hr), h.plans.2⟩ }

theorem Progress.producerTurn (h : Progress input later untaken s) : Progress input later untaken (producerTurn s) := by
  rcases producerTurn_cases s with ⟨x, rest, ho, -, hq, e⟩ | ⟨-, e⟩ <;> rw [e]
  · exact { h with stream := h.stream.imp_left fun ⟨he, hs⟩ => ⟨he, by simpa [ho, hq] using hs⟩ }
  · exact h

theorem Progress.consumerTurn (h : Progress input later untaken s) : Progress input later untaken (consumerTurn s) := by
  rcases consumerTurn_cases s with ⟨a, rest, -, -, -, e⟩ | ⟨-, e⟩ <;> rw [e]
  · exact { h with }
  · exact h

/-- A write is in IDLE, where nothing is claimed of the configuration. -/
theorem Progress.writeReg (h : Progress input later untaken s) (hp : s.phase = .idle) (data : Word) (r : RegName) :
    Progress input later untaken (writeReg data s r) := by
  obtain ⟨c, b, i, o, w, m, e⟩ := writeReg_frame data s r
  rw [e]
  exact { h with onCourse := fun hc => by simp [hp, Phase.afterCheck] at hc }

theorem Progress.execBus {w : BusWord} {t : State} (h : Progress input later untaken s) (hw : decodeBus w ≠ .srst)
    (e : exec (decodeBus w) s = .next t) : Progress input later untaken t := by
  rcases decodeBus_cases w with hi | hi | ⟨off, data, hi⟩ | ⟨off, hi⟩
  · exact absurd hi hw
  · rw [hi, exec, execStart] at e
    split_ifs at e with hp <;> cases e
    · exact { h with
        fresh := fun _ => h.fresh (.inl hp)
        onCourse := nofun }
    · exact h
  · rw [hi] at e
    cases e
    rcases busWrite_cases off data s with e | ⟨hp, r, -, e⟩ <;> rw [e]
    · exact h
    · exact h.writeReg hp data r
  · rw [hi] at e
    cases e
    exact { h with }

/-! ### The run -/

theorem Progress.step {t : State} (h : Progress input later untaken s) (hinv : StateInv s) (hstep : step s = .next t) :
    ∃ untaken', Progress input later untaken' t := by
  have ha := h.afterTurn
  rcases step_cases hstep with ⟨-, e⟩ | ⟨-, -, rfl⟩ | ⟨w, rest, -, hq, e⟩ | ⟨-, rfl⟩ | ⟨-, rfl⟩ | ⟨hr, -⟩
  · exact ha.coreTurn hinv.afterTurn e
  · exact ⟨_, ha⟩
  · have hw : ∀ v ∈ w :: rest, decodeBus v ≠ .srst := hq ▸ h.plans.2
    refine ⟨untaken, Progress.execBus (s := { s.afterTurn with hostQ := rest }) ?_ (hw w (by simp)) e⟩
    exact { ha with plans := ⟨ha.plans.1, fun v hv => hw v (by simp [hv])⟩ }
  · exact ⟨_, ha.producerTurn⟩
  · exact ⟨_, ha.consumerTurn⟩
  · exact absurd (List.mem_of_head? hr) h.plans.1

theorem Progress.run {t : State} {k : Nat} (h : Progress input later untaken s) (hinv : StateInv s)
    (hrun : Sys2Proof.core.run k s = .next t) : StateInv t ∧ ∃ untaken', Progress input later untaken' t := by
  induction k generalizing s untaken with
  | zero =>
    cases hrun
    exact ⟨hinv, _, h⟩
  | succ k ih =>
    obtain ⟨u, hstep, hrun⟩ := run_succ_cases hrun
    obtain ⟨untaken', hu⟩ := h.step hinv hstep
    exact ih hu (everyStepKeepsTheInvariant s u hinv hstep) hrun

end Progress

theorem stateInv_planned (turns : List Turn) (host : List BusWord) (input : List Byte) (later : List InItem)
    (answers : List OutAnswer) : StateInv (State.planned turns host input later answers) :=
  { registers := { resetMeetsTheInvariant.registers with }
    buffers := { resetMeetsTheInvariant.buffers with }
    streams := { resetMeetsTheInvariant.streams with } }

theorem progress_planned {turns : List Turn} {host : List BusWord} (hno : noReset turns host) (input : List Byte)
    (later : List InItem) (answers : List OutAnswer) :
    Progress input later input (State.planned turns host input later answers) where
  plans := hno
  stream := .inl ⟨rfl, rfl⟩
  fresh _ := ⟨rfl, rfl⟩
  onCourse := nofun

/-- Settles O47: what is written and what is owed make up the output of the run in every state of it, and in DONE
nothing is owed. -/
theorem outputIsTheFunctionOfItsInput : Obligations.OutputIsTheFunctionOfItsInput := by
  unfold Obligations.OutputIsTheFunctionOfItsInput
  intro turns host input later answers k t hno hrun hp hq
  obtain ⟨hinv, untaken, h⟩ := (progress_planned hno input later answers).run
    (stateInv_planned turns host input later answers) hrun
  obtain ⟨mod, hm, hout⟩ := h.onCourse (by rw [hp]; rfl) hq
  rw [owed_done mod _ hp, List.append_nil] at hout
  exact ⟨mod, hm, hout, hinv.streams.outCount⟩

end Sys2Proof.Machine

/-! PROOFS. The two formats (spec/30_encoding.md R90 to R103): the fields of a word and the bits a row tests, what the
decoder yields, and the step that runs the decoded operation. -/

namespace Sys2Proof.Machine

open Sys2Proof.Laws

/-! ### Fields -/

@[simp] theorem busW_busWord (write : Bool) (off : BitVec 8) (data : Word) : busW (busWord write off data) = write :=
  RowMatch.busWord_bit40 write off data

@[simp] theorem busOff_busWord (write : Bool) (off : BitVec 8) (data : Word) :
    busOff (busWord write off data) = off := by
  unfold busOff busWord
  rw [BitVec.extractLsb'_append_eq_of_le (by decide)]
  exact BitVec.extractLsb'_append_eq_right

@[simp] theorem busData_busWord (write : Bool) (off : BitVec 8) (data : Word) :
    busData (busWord write off data) = data :=
  BitVec.extractLsb'_append_eq_right

theorem ofBool_getLsbD {n : Nat} (w : BitVec n) (k : Nat) : BitVec.ofBool (w.getLsbD k) = w.extractLsb' k 1 := by
  ext j hj
  obtain rfl : j = 0 := by omega
  simp

/-- A BUS value is its three fields (spec/30_encoding.md R91). -/
theorem busWord_fields (w : BusWord) : busWord (busW w) (busOff w) (busData w) = w := by
  have h32 : w.extractLsb' 40 1 ++ w.extractLsb' 32 8 = w.extractLsb' 32 9 :=
    BitVec.extractLsb'_append_extractLsb'_eq_extractLsb' rfl
  have h0 : w.extractLsb' 32 9 ++ w.extractLsb' 0 32 = w.extractLsb' 0 41 :=
    BitVec.extractLsb'_append_extractLsb'_eq_extractLsb' rfl
  rw [busWord, busW, busOff, busData, ofBool_getLsbD, h32, h0, BitVec.extractLsb'_eq_self]

theorem bus_ext_iff {v w : BusWord} : v = w ↔ busW v = busW w ∧ busOff v = busOff w ∧ busData v = busData w := by
  refine ⟨by rintro rfl; simp, fun ⟨hW, hOff, hData⟩ => ?_⟩
  rw [← busWord_fields v, hW, hOff, hData, busWord_fields]

/-- An OSW is its six fields (spec/30_encoding.md R92). -/
theorem osw_fields (w : OswWord) :
    oswPh w ++ oswZero w ++ BitVec.ofBool (oswSq w) ++ oswNch w ++ oswEnc w ++ oswMod w = w := by
  have h7 : w.extractLsb' 12 4 ++ w.extractLsb' 7 5 = w.extractLsb' 7 9 :=
    BitVec.extractLsb'_append_extractLsb'_eq_extractLsb' rfl
  have h6 : w.extractLsb' 7 9 ++ w.extractLsb' 6 1 = w.extractLsb' 6 10 :=
    BitVec.extractLsb'_append_extractLsb'_eq_extractLsb' rfl
  have h4 : w.extractLsb' 6 10 ++ w.extractLsb' 4 2 = w.extractLsb' 4 12 :=
    BitVec.extractLsb'_append_extractLsb'_eq_extractLsb' rfl
  have h2 : w.extractLsb' 4 12 ++ w.extractLsb' 2 2 = w.extractLsb' 2 14 :=
    BitVec.extractLsb'_append_extractLsb'_eq_extractLsb' rfl
  have h0 : w.extractLsb' 2 14 ++ w.extractLsb' 0 2 = w.extractLsb' 0 16 :=
    BitVec.extractLsb'_append_extractLsb'_eq_extractLsb' rfl
  rw [oswPh, oswZero, oswSq, oswNch, oswEnc, oswMod, ofBool_getLsbD, h7, h6, h4, h2, h0, BitVec.extractLsb'_eq_self]

/-- Bits that a mask tests agree where their whole field does, or where the mask tests none of it. -/
theorem extractLsb'_and_congr {n lo len : Nat} {v w mask : BitVec n}
    (h : w.extractLsb' lo len = v.extractLsb' lo len ∨ mask.extractLsb' lo len = 0) :
    (w &&& mask).extractLsb' lo len = (v &&& mask).extractLsb' lo len := by
  rw [BitVec.extractLsb'_and, BitVec.extractLsb'_and]
  rcases h with h | h <;> rw [h]
  simp

/-! ### Rows of BUS values -/

/-- A row is matched where the word, cut to the mask, is the row's value. -/
theorem matchesRow_iff {n : Nat} {i : Instr} {e : Encoded} {w mask value : BitVec n} (he : e.bits = w.toNat)
    (hrow : i.row = (mask.toNat, value.toNat)) : i.matchesRow e = true ↔ w &&& mask = value := by
  rw [Instr.matchesRow, hrow, he, beq_iff_eq, ← BitVec.toNat_and, BitVec.toNat_inj]

theorem bus_and_eq_iff (w mask value : BusWord) :
    w &&& mask = value ↔
      (busW w && busW mask) = busW value ∧ busOff w &&& busOff mask = busOff value ∧
        busData w &&& busData mask = busData value := by
  rw [bus_ext_iff, show busW (w &&& mask) = _ from BitVec.getLsbD_and,
    show busOff (w &&& mask) = _ from BitVec.extractLsb'_and,
    show busData (w &&& mask) = _ from BitVec.extractLsb'_and]
  rfl

theorem and_twoPow_eq_iff {n : Nat} (x : BitVec n) {k : Nat} (hk : k < n) :
    x &&& BitVec.twoPow n k = BitVec.twoPow n k ↔ x.getLsbD k = true := by
  have hne : BitVec.twoPow n k ≠ 0#n := fun h => by
    have := congrArg (BitVec.getLsbD · k) h
    simp [hk] at this
  rw [BitVec.and_twoPow]
  split_ifs with h
  · simp [h]
  · simp [h, hne.symm]

theorem and_three_eq_one_iff (x : Word) : x &&& 3 = 1 ↔ x.getLsbD 0 = true ∧ x.getLsbD 1 = false := by
  have hmod : (x &&& 3).toNat = x.toNat % 4 := by
    rw [BitVec.toNat_and]
    exact Nat.and_two_pow_sub_one_eq_mod x.toNat 2
  rw [← BitVec.toNat_inj, hmod, ← BitVec.testBit_toNat, ← BitVec.testBit_toNat, Nat.testBit_eq_decide_div_mod_eq,
    Nat.testBit_eq_decide_div_mod_eq, decide_eq_true_iff, decide_eq_false_iff_not]
  show x.toNat % 4 = 1 ↔ _
  omega

theorem srst_matchesRow_iff (w : BusWord) :
    Instr.srst.matchesRow (.bus w) = true ↔
      busW w = true ∧ busOff w = ctrlOffset ∧ (busData w).getLsbD 1 = true := by
  rw [matchesRow_iff (w := w) (mask := busWord true (BitVec.allOnes 8) (BitVec.twoPow 32 1))
    (value := busWord true ctrlOffset (BitVec.twoPow 32 1)) rfl rfl, bus_and_eq_iff]
  simp only [busW_busWord, busOff_busWord, busData_busWord, BitVec.and_allOnes, Bool.and_true,
    and_twoPow_eq_iff _ (show 1 < 32 by decide)]

theorem start_matchesRow_iff (w : BusWord) :
    Instr.start.matchesRow (.bus w) = true ↔
      busW w = true ∧ busOff w = ctrlOffset ∧ (busData w).getLsbD 0 = true ∧ (busData w).getLsbD 1 = false := by
  rw [matchesRow_iff (w := w) (mask := busWord true (BitVec.allOnes 8) 3) (value := busWord true ctrlOffset 1) rfl rfl,
    bus_and_eq_iff]
  simp only [busW_busWord, busOff_busWord, busData_busWord, BitVec.and_allOnes, Bool.and_true, and_three_eq_one_iff]

theorem regWr_matchesRow_iff (off : BitVec 8) (data : Word) (w : BusWord) :
    (Instr.regWr off data).matchesRow (.bus w) = true ↔ busW w = true := by
  rw [matchesRow_iff (w := w) (mask := busWord true 0 0) (value := busWord true 0 0) rfl rfl, bus_and_eq_iff]
  simp

theorem regRd_matchesRow_iff (off : BitVec 8) (w : BusWord) :
    (Instr.regRd off).matchesRow (.bus w) = true ↔ busW w = false := by
  rw [matchesRow_iff (w := w) (mask := busWord true 0 0) (value := busWord false 0 0) rfl rfl, bus_and_eq_iff]
  simp

/-! ### What a BUS value decodes to -/

/-- The Host operation is the first row that matches (spec/30_encoding.md R98). -/
theorem decodeBus_eq_firstRow (w : BusWord) :
    decodeBus w =
      if Instr.srst.matchesRow (.bus w) then .srst
      else if Instr.start.matchesRow (.bus w) then .start
      else if busW w then .regWr (busOff w) (busData w)
      else .regRd (busOff w) := by
  simp only [srst_matchesRow_iff, start_matchesRow_iff, decodeBus]
  cases busW w with
  | false => simp
  | true => by_cases hoff : busOff w = ctrlOffset <;> cases (busData w).getLsbD 1 <;> simp [hoff]

theorem decodeBus_matchesRow (w : BusWord) : (decodeBus w).matchesRow (.bus w) = true := by
  rw [decodeBus_eq_firstRow]
  split_ifs with hsrst hstart hW
  · exact hsrst
  · exact hstart
  · exact (regWr_matchesRow_iff _ _ w).2 hW
  · exact (regRd_matchesRow_iff _ w).2 (by simpa using hW)

/-- What a BUS value decodes to, by its fields. -/
theorem decodeBus_busWord (write : Bool) (off : BitVec 8) (data : Word) :
    decodeBus (busWord write off data) =
      if write then
        if isCommandWrite off data then if data.getLsbD 1 then .srst else .start
        else .regWr off data
      else .regRd off := by
  simp only [decodeBus, isCommandWrite, busW_busWord, busOff_busWord, busData_busWord]
  cases write with
  | false => simp
  | true =>
    by_cases hoff : off = ctrlOffset
    · by_cases hsrst : data[1] = true <;> simp [hoff, hsrst]
    · simp [hoff]

theorem decodeBus_wellFormed (w : BusWord) : (decodeBus w).wellFormed = true := by
  rw [← busWord_fields w, decodeBus_busWord]
  split_ifs with hW hcmd
  · rfl
  · rfl
  · simpa [Instr.wellFormed, Instr.isSelected, Instr.isPlainWrite] using hcmd
  · rfl

/-! ### What an OSW decodes to -/

/-- The fields that select each Core operation (spec/30_encoding.md R99). -/
inductive OswSelects (w : OswWord) : Instr → Prop
  | check (hph : oswPh w = 1) : OswSelects w .check
  | readBlock (hph : oswPh w = 2) : OswSelects w .readBlock
  | normU8 (hph : oswPh w = 3) (henc : oswEnc w = 0) : OswSelects w .normU8
  | normI16 (hph : oswPh w = 3) (henc : oswEnc w = 1) : OswSelects w .normI16
  | decodeAm (hph : oswPh w = 4) (hmod : oswMod w = 0) : OswSelects w .decodeAm
  | decodeWbfm (hph : oswPh w = 4) (hmod : oswMod w = 1) : OswSelects w .decodeWbfm
  | decodeNbfm (hph : oswPh w = 4) (hmod : oswMod w = 2) : OswSelects w .decodeNbfm
  | emitMono (hph : oswPh w = 5) (hnch : oswNch w = 1) : OswSelects w .emitMono
  | emitStereo (hph : oswPh w = 5) (hnch : oswNch w = 2) : OswSelects w .emitStereo
  | quantLin (hph : oswPh w = 5) (hsq : oswSq w = false) : OswSelects w .quantLin
  | quantSq (hph : oswPh w = 5) (hsq : oswSq w = true) : OswSelects w .quantSq

theorem decodeOsw_selects {w : OswWord} {i : Instr} (h : decodeOsw w = .ok i) : OswSelects w i := by
  unfold decodeOsw at h
  split_ifs at h
  split at h
  case h_1 hph => cases h; exact .check (BitVec.eq_of_toNat_eq hph)
  case h_2 hph => cases h; exact .readBlock (BitVec.eq_of_toNat_eq hph)
  case h_3 hph =>
    unfold normRow at h
    split_ifs at h with h0 h1 <;> cases h
    · exact .normU8 (BitVec.eq_of_toNat_eq hph) h0
    · exact .normI16 (BitVec.eq_of_toNat_eq hph) h1
  case h_4 hph =>
    unfold decodeRow at h
    split_ifs at h with h0 h1 h2 <;> cases h
    · exact .decodeAm (BitVec.eq_of_toNat_eq hph) h0
    · exact .decodeWbfm (BitVec.eq_of_toNat_eq hph) h1
    · exact .decodeNbfm (BitVec.eq_of_toNat_eq hph) h2
  case h_5 hph =>
    unfold emitRow quantRow at h
    split_ifs at h with h1 h2 hsq <;> cases h
    · exact .emitMono (BitVec.eq_of_toNat_eq hph) h1
    · exact .emitStereo (BitVec.eq_of_toNat_eq hph) h2
    · exact .quantSq (BitVec.eq_of_toNat_eq hph) hsq
    · exact .quantLin (BitVec.eq_of_toNat_eq hph) (by simpa using hsq)
  all_goals cases h

/-- An OSW matches a row where it agrees with one word of the row on PH and on every field that the row tests. -/
theorem matchesRow_osw {i : Instr} {v w mask : OswWord} (hrow : i.row = (mask.toNat, (v &&& mask).toNat))
    (hph : oswPh w = oswPh v) (hzero : oswZero mask = 0 := by rfl)
    (hsq : oswSq w = oswSq v ∨ oswSq mask = false := by exact .inr rfl)
    (hnch : oswNch w = oswNch v ∨ oswNch mask = 0 := by exact .inr rfl)
    (henc : oswEnc w = oswEnc v ∨ oswEnc mask = 0 := by exact .inr rfl)
    (hmod : oswMod w = oswMod v ∨ oswMod mask = 0 := by exact .inr rfl) : i.matchesRow (.osw w) = true := by
  have hsq : oswSq (w &&& mask) = oswSq (v &&& mask) := by
    simp only [oswSq, BitVec.getLsbD_and] at hsq ⊢
    rcases hsq with h | h <;> rw [h]
    simp only [Bool.and_false]
  rw [matchesRow_iff rfl hrow, ← osw_fields (w &&& mask), hsq,
    show oswPh (w &&& mask) = _ from extractLsb'_and_congr (.inl hph),
    show oswZero (w &&& mask) = _ from extractLsb'_and_congr (.inr hzero),
    show oswNch (w &&& mask) = _ from extractLsb'_and_congr hnch,
    show oswEnc (w &&& mask) = _ from extractLsb'_and_congr henc,
    show oswMod (w &&& mask) = _ from extractLsb'_and_congr hmod]
  exact osw_fields (v &&& mask)

theorem OswSelects.matchesRow {w : OswWord} {i : Instr} (h : OswSelects w i) : i.matchesRow (.osw w) = true := by
  cases h with
  | check hph => exact matchesRow_osw (v := 0x1000) (mask := 0xF000) rfl hph
  | readBlock hph => exact matchesRow_osw (v := 0x2000) (mask := 0xF000) rfl hph
  | normU8 hph henc => exact matchesRow_osw (v := 0x3000) (mask := 0xF00C) rfl hph (henc := .inl henc)
  | normI16 hph henc => exact matchesRow_osw (v := 0x3004) (mask := 0xF00C) rfl hph (henc := .inl henc)
  | decodeAm hph hmod => exact matchesRow_osw (v := 0x4000) (mask := 0xF003) rfl hph (hmod := .inl hmod)
  | decodeWbfm hph hmod => exact matchesRow_osw (v := 0x4001) (mask := 0xF003) rfl hph (hmod := .inl hmod)
  | decodeNbfm hph hmod => exact matchesRow_osw (v := 0x4002) (mask := 0xF003) rfl hph (hmod := .inl hmod)
  | emitMono hph hnch => exact matchesRow_osw (v := 0x5010) (mask := 0xF030) rfl hph (hnch := .inl hnch)
  | emitStereo hph hnch => exact matchesRow_osw (v := 0x5020) (mask := 0xF030) rfl hph (hnch := .inl hnch)
  | quantLin hph hsq => exact matchesRow_osw (v := 0x5000) (mask := 0xF040) rfl hph (hsq := .inl hsq)
  | quantSq hph hsq => exact matchesRow_osw (v := 0x5040) (mask := 0xF040) rfl hph (hsq := .inl hsq)

theorem OswSelects.wellFormed {w : OswWord} {i : Instr} (h : OswSelects w i) : i.wellFormed = true := by
  cases h <;> rfl

/-! ### The statements about words -/

/-- Settles O48: a BUS word gives back the fields it is made of, and the word of each Core operation is a literal. -/
theorem decodeOfEncodeIsTheOperation : Obligations.DecodeOfEncodeIsTheOperation := by
  unfold Obligations.DecodeOfEncodeIsTheOperation
  intro i hi
  cases i with
  | srst | start => rfl
  | regWr off data =>
    have hplain : isCommandWrite off data = false := by
      simpa [Instr.wellFormed, Instr.isSelected, Instr.isPlainWrite] using hi
    simp [encode, decode, decodeBus_busWord, hplain]
  | regRd off => simp [encode, decode, decodeBus_busWord]
  | decInit => cases hi
  | check | readBlock | normU8 | normI16 | decodeAm | decodeWbfm | decodeNbfm | emitMono | emitStereo | quantLin
  | quantSq => rfl

/-- Settles O49: the Host operation is the first row that matches, and each Core operation has the fields that its row
tests. -/
theorem decodedWordsMatchTheirRow : Obligations.DecodedWordsMatchTheirRow := by
  unfold Obligations.DecodedWordsMatchTheirRow
  refine ⟨fun e i h => ?_, fun w => ⟨?srst, ?start, ?write, ?read⟩⟩
  · cases e with
    | bus w =>
      cases h
      exact ⟨decodeBus_matchesRow w, decodeBus_wellFormed w⟩
    | osw w => exact ⟨(decodeOsw_selects h).matchesRow, (decodeOsw_selects h).wellFormed⟩
  all_goals rw [decodeBus_eq_firstRow]
  case srst =>
    refine ⟨fun h => if_pos h, fun h => ?_⟩
    split_ifs at h with hsrst
    exact hsrst
  case start =>
    intro hsrst hstart
    simp [hsrst, hstart]
  case write =>
    intro hsrst hstart hW
    have hW : busW w = true := hW
    refine ⟨busOff w, busData w, by simp [hsrst, hstart, hW], ?_⟩
    rw [← hW, busWord_fields]
  case read =>
    intro hW
    have hW : busW w = false := hW
    simp [srst_matchesRow_iff, start_matchesRow_iff, hW, busOff]

/-- Settles O50: each word is evaluated. -/
theorem specWordsDecode : Obligations.SpecWordsDecode := by
  unfold Obligations.SpecWordsDecode
  decide

@[simp] theorem regAt_regOffset (r : RegName) : regAt (regOffset r) = some r := by
  cases r <;> rfl

theorem regOffset_eq_ctrlOffset_iff (r : RegName) : regOffset r = ctrlOffset ↔ r = .CTRL := by
  cases r <;> decide

theorem modValue_lt (m : ModOption) : modValue m < 4 := by
  cases m <;> decide

theorem encValue_lt (e : EncOption) : encValue e < 4 := by
  cases e <;> decide

theorem toNat_configValue (m : ModOption) (e : EncOption) {ch sq : Nat} (hch : ch < 4) (hsq : sq < 2) :
    (configValue m e ch sq).toNat = sq * 64 + ch * 16 + encValue e * 4 + modValue m := by
  have hm := modValue_lt m
  have he := encValue_lt e
  rw [configValue, BitVec.toNat_ofNat, Nat.mod_eq_of_lt (by omega)]

/-- Each field of CFG is the digit that CONFIG writes in its place (spec/30_encoding.md R103). -/
theorem fields_of_configValue {s : State} {m : ModOption} {e : EncOption} {ch sq : Nat} (hch : ch < 4) (hsq : sq < 2)
    (hcfg : s.cfg = configValue m e ch sq) :
    s.cfgMod.toNat = modValue m ∧ s.cfgEnc.toNat = encValue e ∧ s.cfgNch.toNat = ch ∧ s.cfgSq = decide (sq = 1) := by
  have hm := modValue_lt m
  have he := encValue_lt e
  have hvalue := toNat_configValue m e hch hsq
  have hfield (lo len : Nat) : (s.cfg.extractLsb' lo len).toNat =
      (sq * 64 + ch * 16 + encValue e * 4 + modValue m) / 2 ^ lo % 2 ^ len := by
    rw [BitVec.extractLsb'_toNat, Nat.shiftRight_eq_div_pow, hcfg, hvalue]
  refine ⟨(hfield 0 2).trans (by omega), (hfield 2 2).trans (by omega), (hfield 4 2).trans (by omega), ?_⟩
  rw [State.cfgSq, hcfg, ← BitVec.testBit_toNat, hvalue, Nat.testBit_eq_decide_div_mod_eq, decide_eq_decide]
  omega

/-- A WR line is no command: it has neither command bit where it names CTRL. -/
theorem decode_lineBus_wr {r : RegName} {v : Word} (hr : r = .CTRL → v.getLsbD 0 = false ∧ v.getLsbD 1 = false) :
    (lineBus (.wr r v)).map decodeBus = [.regWr (regOffset r) v] := by
  have hplain : isCommandWrite (regOffset r) v = false := by
    rw [isCommandWrite, Bool.and_eq_false_imp, beq_iff_eq, regOffset_eq_ctrlOffset_iff]
    intro h
    obtain ⟨h0, h1⟩ := hr h
    rw [h0, h1, Bool.or_false]
  simp [lineBus, decodeBus_busWord, hplain]

/-- Settles O51: a line's BUS value gives back the fields it is made of, and CONFIG is the WR line of CFG. -/
theorem programLinesNameTheirOperations : Obligations.ProgramLinesNameTheirOperations := by
  unfold Obligations.ProgramLinesNameTheirOperations
  refine ⟨fun r v => decode_lineBus_wr, fun r => ⟨?_, regAt_regOffset r⟩,
    fun m e ch sq => decode_lineBus_wr (r := .CFG) nofun, rfl, rfl,
    fun m e ch sq hch hsq => fields_of_configValue hch hsq rfl⟩
  simp [lineBus, decodeBus_busWord]

/-! ### The step that runs the decoded operation -/

theorem step_of_empty_schedule {s : State} (h : s.schedule = []) : step s = coreTurn s := by
  simp [step, h]

theorem coreTurn_of_decodeOsw {s : State} {i : Instr} (hp : s.phase.hasCoreStep = true) (h : decodeOsw s.osw = .ok i) :
    coreTurn s = exec i s := by
  simp [coreTurn, hp, h]

theorem coreTurn_of_not_hasCoreStep {s : State} (hp : s.phase.hasCoreStep = false) : coreTurn s = .next s := by
  simp [coreTurn, hp]

/-- Settles O25: the head of the schedule names the agent, and its turn decodes its word. -/
theorem stepRunsTheDecodedOperation : Obligations.StepRunsTheDecodedOperation := by
  unfold Obligations.StepRunsTheDecodedOperation
  refine ⟨fun s turns w ws hs hq => ⟨decodeBus_wellFormed w, ?_⟩,
    fun s i hp hi => ⟨(decodeOsw_selects hi).wellFormed, fun hs => ?_, fun turns hs => ?_⟩⟩
  · rw [step_of_schedule hs]
    simp only [takeTurn, hostTurn, hq]
  · rw [step_of_empty_schedule hs, coreTurn_of_decodeOsw hp hi]
  · rw [step_of_schedule hs]
    exact coreTurn_of_decodeOsw (s := { s with schedule := turns }) hp hi

/-- Settles O26: none of the three phases has a Core step. -/
theorem coreHasNoStepOutsideARun : Obligations.CoreHasNoStepOutsideARun := by
  unfold Obligations.CoreHasNoStepOutsideARun
  intro s hp
  have hp : s.phase.hasCoreStep = false := by
    rcases hp with hp | hp | hp <;> rw [hp] <;> rfl
  refine ⟨fun hs => ?_, fun turns hs => ?_⟩
  · rw [step_of_empty_schedule hs, coreTurn_of_not_hasCoreStep hp]
  · rw [step_of_schedule hs]
    exact coreTurn_of_not_hasCoreStep (s := { s with schedule := turns }) hp

/-! ### No step stops -/

/-- Every operation that some word selects has a next state; DEC.INIT alone can be refused. -/
theorem exec_of_wellFormed {i : Instr} (h : i.wellFormed = true) (s : State) : ∃ t, exec i s = .next t := by
  cases i with
  | decInit => cases h
  | srst | start | regWr | regRd | check | readBlock | normU8 | normI16 | decodeAm | decodeWbfm | decodeNbfm | emitMono
  | emitStereo | quantLin | quantSq => exact ⟨_, rfl⟩

/-- Under the invariant the OSW of a phase with a Core step selects an operation that is no bare QUANT row. -/
theorem StateInv.decodeOsw_osw {s : State} (h : StateInv s) (hp : s.phase.hasCoreStep = true) :
    ∃ i, decodeOsw s.osw = .ok i ∧ i ≠ .quantLin ∧ i ≠ .quantSq := by
  have hlegal := h.registers.legal
  rw [Machine.decodeOsw_osw]
  cases hph : s.phase with
  | idle | done | fault => rw [hph] at hp; cases hp
  | check | read => exact ⟨_, rfl, nofun, nofun⟩
  | norm =>
    obtain ⟨-, henc | henc, -⟩ := hlegal (by rw [hph]; rfl) <;> rw [henc] <;> exact ⟨_, rfl, nofun, nofun⟩
  | decode =>
    obtain ⟨hmod, -⟩ := hlegal (by rw [hph]; rfl)
    have hrow : ∀ c : BitVec 2, c ≠ 3 → c = 0 ∨ c = 1 ∨ c = 2 := by decide
    obtain hm | hm | hm := hrow _ hmod <;> rw [hm] <;> exact ⟨_, rfl, nofun, nofun⟩
  | emit =>
    obtain hn | hn := h.nch_of_emit hph <;> rw [hn] <;> exact ⟨_, rfl, nofun, nofun⟩

theorem StateInv.coreTurn_answers {s : State} (h : StateInv s) : ∃ t, Machine.coreTurn s = .next t := by
  cases hp : s.phase.hasCoreStep with
  | false => exact ⟨s, coreTurn_of_not_hasCoreStep hp⟩
  | true =>
    obtain ⟨i, hi, -⟩ := h.decodeOsw_osw hp
    rw [coreTurn_of_decodeOsw hp hi]
    exact exec_of_wellFormed (decodeOsw_selects hi).wellFormed s

theorem hostTurn_answers (s : State) : ∃ t, hostTurn s = .next t := by
  unfold hostTurn
  cases s.hostQ with
  | nil => exact ⟨s, rfl⟩
  | cons w rest => exact exec_of_wellFormed (decodeBus_wellFormed w) _

theorem StateInv.step_answers {s : State} (h : StateInv s) : ∃ t, Machine.step s = .next t := by
  cases hs : s.schedule with
  | nil =>
    rw [step_of_empty_schedule hs]
    exact h.coreTurn_answers
  | cons turn turns =>
    rw [step_of_schedule hs]
    cases turn with
    | core => exact (h.with_plans turns s.hostQ s.hostReads).coreTurn_answers
    | host => exact hostTurn_answers _
    | producer | consumer | reset => exact ⟨_, rfl⟩

/-- Settles O41: the Core's word selects an operation, and every selected operation has a next state. -/
theorem noReachableStateStops : Obligations.NoReachableStateStops := by
  unfold Obligations.NoReachableStateStops
  intro s h
  refine ⟨h.step_answers, h.decodeOsw_osw, fun hp => ?_⟩
  obtain ⟨hmod, henc, hnch, -⟩ := h.registers.legal (by rcases hp with hp | hp | hp <;> rw [hp] <;> rfl)
  refine ⟨hmod, ?_⟩
  rcases henc with henc | henc <;> rcases hnch with hnch | hnch <;> rw [henc, hnch] <;> decide

end Sys2Proof.Machine

/-! PROOFS. The normalizer (spec/40_normalizer.md): the values of binary32 that a rounding keeps, the quotients that are
among them, and the entries of NORM that the two operations write. -/

namespace Sys2Proof.Machine

/-! ### Values that need no rounding -/

/-- A magnitude is its own nearest one. -/
theorem realBits_unitsOf {n : Nat} (hn : n < infBits) : realBits (unitsOf n : ℝ) = n := by
  have hu : (0 : ℝ) ≤ unitsOf n := Nat.cast_nonneg _
  obtain ⟨e, hlo, hhi, heq⟩ := exists_exponent hu
  obtain ⟨hnear, -⟩ := rounded_noFarther hu hlo hhi n
  rw [sub_self, abs_zero, abs_nonpos_iff, sub_eq_zero, Nat.cast_inj] at hnear
  rw [heq, unitsOf_strictMono.injective hnear, min_eq_left hn.le]

/-- Every number of at most 24 significant bits is a magnitude: it is doubled until its significand is normal or its
exponent is used up. -/
theorem exists_unitsOf_eq (e : Nat) {a : Nat} (ha : a < 2 ^ 24) : ∃ n, unitsOf n = a * 2 ^ e := by
  induction e generalizing a with
  | zero => exact ⟨_, unitsOf_scaled (.inl rfl) ha.le⟩
  | succ e ih =>
    by_cases hnormal : 2 ^ 23 ≤ a
    · exact ⟨_, unitsOf_scaled (.inr hnormal) ha.le⟩
    · obtain ⟨n, hn⟩ := ih (a := a * 2) (by omega)
      exact ⟨n, by rw [hn, Nat.pow_succ', Nat.mul_assoc]⟩

/-- The magnitudes below the end of the greatest exponent are finite. -/
theorem lt_infBits_of_unitsOf_eq {n a e : Nat} (hn : unitsOf n = a * 2 ^ e) (ha : a < 2 ^ 24) (he : e ≤ 253) :
    n < infBits := by
  have hinf : unitsOf infBits = 2 ^ 24 * 2 ^ 253 := unitsOf_scaled (e := 253) (.inr (by decide)) le_rfl
  rw [← unitsOf_strictMono.lt_iff_lt, hn, hinf]
  exact Nat.mul_lt_mul_of_lt_of_le ha (Nat.pow_le_pow_right Nat.two_pos he) (Nat.two_pow_pos _)

/-- `x` is the finite pattern of a sign and of a magnitude in units of 2^-149. -/
structure Represents (x : F32) (neg : Bool) (units : Nat) : Prop where
  isNaN : isNaN x = false
  isInf : isInf x = false
  signOf : signOf x = neg
  magOf : magOf x = units

theorem represents_signed (neg : Bool) {n : Nat} (hn : n < infBits) : Represents (signed neg n) neg (unitsOf n) := by
  have hlt : n < 2 ^ 31 := hn.trans (by decide)
  have hmag := magBits_signed neg hlt
  exact ⟨by rw [isNaN_eq_false_iff, hmag]; exact hn.le, by rw [isInf_eq_false_iff, hmag]; exact hn.ne,
    signOf_signed neg hlt, by rw [magOf_eq_unitsOf, hmag]⟩

/-- A quotient of at most 24 significant bits is rounded to itself. -/
theorem represents_roundRatio (neg : Bool) {num den a e : Nat} (hd : 0 < den) (h : num = a * 2 ^ e * den)
    (ha : a < 2 ^ 24) (he : e ≤ 253) : Represents (roundRatio neg num den) neg (a * 2 ^ e) := by
  obtain ⟨n, hn⟩ := exists_unitsOf_eq e ha
  have hfin := lt_infBits_of_unitsOf_eq hn ha he
  have hquot : (num : ℝ) / den = unitsOf n := by
    rw [h, ← hn, Nat.cast_mul, mul_div_cancel_right₀ _ (Nat.cast_ne_zero.mpr hd.ne')]
  rw [roundRatio_eq_signed_realBits neg num hd, hquot, realBits_unitsOf hfin, ← hn]
  exact represents_signed neg hfin

/-- An integer of at most 24 significant bits is converted exactly. -/
theorem represents_toF32 {v : Int} (hv : v.natAbs < 2 ^ 24) :
    Represents (toF32 v) (decide (v < 0)) (v.natAbs * unitsPerOne) :=
  represents_roundRatio _ Nat.one_pos (Nat.mul_one _).symm hv (by decide)

theorem Represents.magBits_pos {x : F32} {neg : Bool} {units : Nat} (h : Represents x neg units) (hu : 0 < units) :
    0 < magBits x := by
  rwa [← unitsOf_strictMono.lt_iff_lt, ← magOf_eq_unitsOf, h.magOf]

/-- A magnitude from the least normal one on has a normal pattern. -/
theorem Represents.le_magBits {x : F32} {neg : Bool} {units : Nat} (h : Represents x neg units) (hu : 2 ^ 23 ≤ units) :
    2 ^ 23 ≤ magBits x := by
  have hleast : unitsOf (2 ^ 23) = 2 ^ 23 := rfl
  rwa [← unitsOf_strictMono.le_iff_le, ← magOf_eq_unitsOf, h.magOf, hleast]

theorem fdiv_of_represents {a b : F32} {na nb : Bool} {ua ub : Nat} (ha : Represents a na ua)
    (hb : Represents b nb ub) (hpos : 0 < ub) : fdiv a b = roundRatio (na ^^ nb) (ua * unitsPerOne) ub := by
  simp [fdiv, ha.isNaN, hb.isNaN, ha.isInf, hb.isInf, ha.signOf, hb.signOf, ha.magOf, hb.magOf,
    (hb.magBits_pos hpos).ne']

/-- The quotient of an integer by a power of two is exact (spec/40_normalizer.md R123). -/
theorem represents_fdiv_pow {v : Int} (hv : v.natAbs < 2 ^ 24) {j : Nat} (hj : j < 24) :
    Represents (fdiv (toF32 v) (toF32 (2 ^ j : Nat))) (decide (v < 0)) (v.natAbs * 2 ^ (149 - j)) := by
  have hden : 0 < 2 ^ j * unitsPerOne := Nat.mul_pos (Nat.two_pow_pos j) unitsPerOne_pos
  have hdiv : Represents (toF32 (2 ^ j : Nat)) false (2 ^ j * unitsPerOne) := by
    have h := represents_toF32 (v := (2 ^ j : Nat)) (Nat.pow_lt_pow_right Nat.one_lt_two hj)
    rwa [decide_eq_false (not_lt.mpr (Int.natCast_nonneg _))] at h
  have hunits : unitsPerOne = 2 ^ (149 - j) * 2 ^ j := by
    rw [← Nat.pow_add, Nat.sub_add_cancel (by omega)]
    rfl
  rw [fdiv_of_represents (represents_toF32 hv) hdiv hden, Bool.xor_false]
  refine represents_roundRatio _ hden ?_ hv (by omega)
  calc v.natAbs * unitsPerOne * unitsPerOne
      = v.natAbs * (2 ^ (149 - j) * 2 ^ j) * unitsPerOne := by rw [← hunits]
    _ = v.natAbs * 2 ^ (149 - j) * (2 ^ j * unitsPerOne) := by ring

/-- What R123 says of a normalized value, for a divisor that is a power of two. -/
theorem fdiv_pow_exact {v : Int} (hv : v.natAbs < 2 ^ 24) {j : Nat} (hj : j < 24) :
    let x := fdiv (toF32 v) (toF32 (2 ^ j : Nat))
    isNaN x = false ∧ isInf x = false ∧ magOf x * 2 ^ j = v.natAbs * unitsPerOne ∧ (signOf x = true ↔ v < 0) ∧
      (v ≠ 0 → 2 ^ 23 ≤ magBits x) := by
  intro x
  have h : Represents x _ _ := represents_fdiv_pow hv hj
  refine ⟨h.isNaN, h.isInf, ?_, by rw [h.signOf, decide_eq_true_iff], fun hne => h.le_magBits ?_⟩
  · rw [h.magOf, Nat.mul_assoc, ← Nat.pow_add, Nat.sub_add_cancel (by omega)]
    rfl
  · calc 2 ^ 23 ≤ 2 ^ (149 - j) := Nat.pow_le_pow_right Nat.two_pos (by omega)
      _ ≤ v.natAbs * 2 ^ (149 - j) := Nat.le_mul_of_pos_left _ (Int.natAbs_pos.mpr hne)

/-- Settles O14: both divisors are powers of two, and both numerators have at most 16 significant bits. -/
theorem normalizedValuesAreExact : Obligations.NormalizedValuesAreExact := by
  unfold Obligations.NormalizedValuesAreExact
  refine ⟨fun b => ?_, fun v hlo hhi => ?_⟩
  · have hb : b.toNat < 2 ^ 8 := b.isLt
    exact fdiv_pow_exact (v := b.toNat - 128) (j := 7) (by omega) (by decide)
  · exact fdiv_pow_exact (j := 15) (by omega) (by decide)

/-! ### The entries of NORM -/

/-- The entries below the count are the values, and nothing but NORM, NS and the phase changes
(spec/40_normalizer.md R124). -/
theorem storeNormalized_writes (count : Word) (value : Nat → F32) (s : State) :
    ∃ norm, storeNormalized count value s = { s with norm := norm, ns := count, phase := .decode } ∧
      (∀ k, k < count.toNat → norm.read k = some (value k)) ∧
      ∀ k, count.toNat ≤ k → norm.read k = s.norm.read k := by
  refine ⟨_, rfl, fun k hk => ?_, fun k hk => ?_⟩
  · simp [read_writeFrom, hk]
  · simp [read_writeFrom, hk.not_gt]

/-- Settles O12: NORM.U8 writes the values of bytes 0 to N - 1. -/
theorem normU8NormalizesEveryByte : Obligations.NormU8NormalizesEveryByte := by
  unfold Obligations.NormU8NormalizesEveryByte
  intro s
  obtain ⟨norm, hnext, hvalues, hrest⟩ := storeNormalized_writes s.n (fun k => normU8Value (u8Sample s k)) s
  refine ⟨norm, congrArg Host.Outcome.next hnext, fun k b hk hb => ?_, hrest⟩
  rw [hvalues k hk, u8Sample, rawAt_eq hb]
  rfl

/-- A word of two bytes as a signed value (`sext_16`, spec/00_scope.md R11). -/
theorem toInt_append_bytes (hi lo : Byte) :
    (hi ++ lo).toInt =
      let v : Int := 256 * hi.toNat + lo.toNat
      if v < 32768 then v else v - 65536 := by
  have hword : (hi ++ lo).toNat = 256 * hi.toNat + lo.toNat := by
    rw [BitVec.toNat_append, ← Nat.shiftLeft_add_eq_or_of_lt lo.isLt, Nat.shiftLeft_eq, Nat.mul_comm]
  extract_lets v
  rw [BitVec.toInt_eq_toNat_cond, hword]
  split_ifs <;> omega

/-- Settles O13: NORM.I16 writes the values of the whole pairs. -/
theorem normI16NormalizesEveryPair : Obligations.NormI16NormalizesEveryPair := by
  unfold Obligations.NormI16NormalizesEveryPair
  intro s
  have hcount : (s.n / 2).toNat = s.n.toNat / 2 := by simp
  obtain ⟨norm, hnext, hvalues, hrest⟩ := storeNormalized_writes (s.n / 2) (fun k => normI16Value (i16Sample s k)) s
  rw [hcount] at hvalues hrest
  refine ⟨norm, s.n / 2, congrArg Host.Outcome.next hnext, hcount, fun k lo hi hk hlo hhi => ?_, hrest⟩
  rw [hvalues k hk, i16Sample, rawAt_eq hlo, rawAt_eq hhi, toInt_append_bytes]
  rfl

end Sys2Proof.Machine

/-! PROOFS. The decoder call (spec/41_decoder.md): DEC.INIT, the checks of a response, and what an accepted response
writes. -/

namespace Sys2Proof.Machine

/-! ### DEC.INIT -/

theorem exec_decInit_of_modOf {s : State} {mod : Mod} (h : modOf s.cfgMod = some mod) :
    exec .decInit s = .next (constructDecoder Config.decoder mod s) := by
  simp only [exec, execDecInit, h]

theorem exec_decInit_of_no_variant {s : State} (h : modOf s.cfgMod = none) :
    exec .decInit s = .refused .reservedModulation := by
  simp only [exec, execDecInit, h]

/-- Settles O9: MOD names a variant unless it is 3. -/
theorem decInitConstructsTheDecoder : Obligations.DecInitConstructsTheDecoder := by
  unfold Obligations.DecInitConstructsTheDecoder
  exact fun s => ⟨fun mod hmod => exec_decInit_of_modOf ((modOf_eq_some_iff _ _).2 hmod),
    fun hmod => exec_decInit_of_no_variant ((modOf_eq_none_iff _).2 hmod)⟩

/-! ### The call -/

theorem samples_eq_of_read {s : State} {xs : List F32} (hlen : xs.length = s.ns.toNat)
    (hread : ∀ k, k < s.ns.toNat → s.norm.read k = xs[k]?) : s.samples = xs := by
  refine List.ext_getElem (by simp [State.samples, hlen]) fun k _ hk => ?_
  have hentry : s.norm.read k = some xs[k] := by rw [hread k (hlen ▸ hk), List.getElem?_eq_getElem hk]
  simp [State.samples, normAt_eq hentry]

theorem stereo_iff (s : State) : s.stereo = true ↔ s.cfgNch = 2 := beq_iff_eq

theorem responseOf_eq_decode (d : Decoder) (mod : Mod) {s : State} {ds : DecState} {xs : List F32}
    (hds : s.dstate = some ds) (hsamples : s.samples = xs) :
    responseOf d mod s = d.decode mod ds xs (decide (s.cfgNch = 2)) := by
  rw [responseOf, State.decoderState, hds, hsamples]
  rfl

/-! ### The checks of a response -/

theorem overflows_iff (cap : Option Nat) (frames : Nat) :
    overflows cap frames = true ↔ ∃ c, cap = some c ∧ c < frames := by
  cases cap <;> simp [overflows]

theorem rightFits_eq_false_iff (r : Response) :
    rightFits r = false ↔ ∀ right, r.right = some right → right.length ≠ r.left.length := by
  rw [← Bool.not_eq_true, rightFits_iff]
  push Not
  rfl

theorem checkResponse_of_overflow {cap : Option Nat} {r : Response} (s : State)
    (h : overflows cap r.left.length = true) : checkResponse cap r s = raiseFault .decOvf s :=
  if_pos h

theorem checkResponse_of_bad_right {cap : Option Nat} {r : Response} {s : State}
    (h : ¬overflows cap r.left.length = true) (hright : s.stereo = true ∧ rightFits r = false) :
    checkResponse cap r s = raiseFault .decLen s :=
  (if_neg h).trans (if_pos (by simpa using hright))

theorem checkResponse_of_fitting {cap : Option Nat} {r : Response} {s : State}
    (h : ¬overflows cap r.left.length = true) (hright : ¬(s.stereo = true ∧ rightFits r = false)) :
    checkResponse cap r s = acceptResponse r s :=
  (if_neg h).trans (if_neg (by simpa using hright))

/-- The entries of a buffer that a sequence is written to from index 0. -/
theorem read_writeFrom_zero {α : Type} (mem : Memory α) (vs : List α) (k : Nat) :
    (mem.writeFrom 0 vs).read k = if k < vs.length then vs[k]? else mem.read k := by
  simp [read_writeFrom]

theorem acceptResponse_audR_of_stereo {r : Response} {s : State} (hs : s.stereo = true) {right : List F32}
    (hr : r.right = some right) : (acceptResponse r s).audR = s.audR.writeFrom 0 right := by
  rw [acceptResponse_audR, if_pos hs, hr, Option.getD_some]

theorem acceptResponse_audR_of_mono (r : Response) {s : State} (hs : ¬s.stereo = true) :
    (acceptResponse r s).audR = s.audR :=
  if_neg hs

/-- Settles O15: the call is made of DSTATE and the samples, and the first failing check of its response decides. -/
theorem decodeCallsTheDecoderOnce : Obligations.DecodeCallsTheDecoderOnce := by
  unfold Obligations.DecodeCallsTheDecoderOnce
  intro i mod hi s ds xs hds hlen hread
  refine ⟨?exec, fun d cap => ?checks⟩
  case exec =>
    simp only [List.mem_cons, Prod.mk.injEq, List.not_mem_nil, or_false] at hi
    obtain ⟨rfl, rfl⟩ | ⟨rfl, rfl⟩ | ⟨rfl, rfl⟩ := hi <;> rfl
  case checks =>
    rw [decodeBlock, responseOf_eq_decode d mod hds (samples_eq_of_read hlen hread)]
    intro r t tooLong rightBad
    have hlong : tooLong ↔ overflows cap r.left.length = true := (overflows_iff cap _).symm
    have hbad : rightBad ↔ s.stereo = true ∧ rightFits r = false :=
      and_congr (stereo_iff s).symm (rightFits_eq_false_iff r).symm
    rw [hlong, hbad]
    refine ⟨checkResponse_of_overflow s, fun h => checkResponse_of_bad_right h, fun h hr => ?accepted⟩
    have ht : t = acceptResponse r s := checkResponse_of_fitting h hr
    rw [ht]
    refine ⟨rfl, frameCount_of_lt, frameCount_le _, read_writeFrom_zero _ _, fun hn => ?mono, fun hn right hr k => ?stereo⟩
    case mono => exact acceptResponse_audR_of_mono r (mt (stereo_iff s).1 hn)
    case stereo => rw [acceptResponse_audR_of_stereo ((stereo_iff s).2 hn) hr, read_writeFrom_zero]

end Sys2Proof.Machine

/-! PROOFS. A run without a reset and the words drawn for NaNs (spec/42_quantizer.md R163): the scalar quantizer alone
draws one, and then QNAN is set for the rest of the run (spec/10_state.md R34). -/

namespace Sys2Proof.Machine

/-! ### Turns that draw no word, or set QNAN -/

/-- The same state after another number of words drawn. -/
abbrev State.withDraws (s : State) (d : Nat) : State := { s with draws := d }

section WithDraws

variable (s : State) (d : Nat)

@[simp] theorem withDraws_cfgMod : (s.withDraws d).cfgMod = s.cfgMod := rfl
@[simp] theorem withDraws_cfgEnc : (s.withDraws d).cfgEnc = s.cfgEnc := rfl
@[simp] theorem withDraws_cfgNch : (s.withDraws d).cfgNch = s.cfgNch := rfl
@[simp] theorem withDraws_offersByte : (s.withDraws d).offersByte = s.offersByte := rfl

end WithDraws

/-- What a turn from `s` to `t` keeps where no reset is planned: a set QNAN and, where QNAN is clear after it, the same
outcome whatever words are drawn. -/
structure KeptUnderDraws (turn : State → Host.Outcome State Fault Refusal) (s t : State) : Prop where
  plans : noReset t.schedule t.hostQ
  qnan : s.qnan = true → t.qnan = true
  free (d : Nat) : t.qnan = false → turn (s.withDraws d) = .next (t.withDraws d)

/-- Whatever next state the turn of `s` answers, it keeps that. -/
def IgnoresDraws (turn : State → Host.Outcome State Fault Refusal) (s : State) : Prop :=
  noReset s.schedule s.hostQ → ∀ t, turn s = .next t → KeptUnderDraws turn s t

/-- The same of an operation that always answers a next state. -/
abbrev OpIgnoresDraws (f : State → State) (s : State) : Prop := IgnoresDraws (fun u => .next (f u)) s

section Turns

variable {s : State} {turn turn' : State → Host.Outcome State Fault Refusal} {f g : State → State}

/-- An operation that plans no reset, keeps QNAN and neither reads nor writes the count of the words. -/
theorem OpIgnoresDraws.of_update (h : ∀ d, (noReset s.schedule s.hostQ → noReset (f s).schedule (f s).hostQ) ∧
    (f s).qnan = s.qnan ∧ f (s.withDraws d) = (f s).withDraws d := by exact fun _ => ⟨id, rfl, rfl⟩) :
    OpIgnoresDraws f s := by
  rintro hno _ ⟨⟩
  obtain ⟨hplans, hqnan, -⟩ := h s.draws
  refine ⟨hplans hno, hqnan.trans, fun d _ => ?_⟩
  obtain ⟨-, -, hfree⟩ := h d
  exact congrArg _ hfree

/-- Only the turn's outcomes at the states that differ from `s` in the count of the words matter. -/
theorem IgnoresDraws.congr (h : IgnoresDraws turn s)
    (e : ∀ d, turn' (s.withDraws d) = turn (s.withDraws d) := by intros; rfl) : IgnoresDraws turn' s :=
  fun hno t ht =>
    have hk := h hno t ((e s.draws).symm.trans ht)
    { hk with free := fun d hq => (e d).trans (hk.free d hq) }

theorem OpIgnoresDraws.congr (h : OpIgnoresDraws f s)
    (e : ∀ d, g (s.withDraws d) = f (s.withDraws d)) : OpIgnoresDraws g s :=
  IgnoresDraws.congr h fun d => congrArg _ (e d)

/-- A choice by a condition that the count of the words does not change. -/
theorem OpIgnoresDraws.ite {c : State → Prop} [DecidablePred c] (hf : c s → OpIgnoresDraws f s)
    (hg : ¬c s → OpIgnoresDraws g s) (hc : ∀ d, c (s.withDraws d) = c s := by intros; rfl) :
    OpIgnoresDraws (fun u => if c u then f u else g u) s := by
  by_cases h : c s
  · exact (hf h).congr fun d => if_pos ((hc d).symm ▸ h)
  · exact (hg h).congr fun d => if_neg ((hc d).symm ▸ h)

theorem IgnoresDraws.of_noReset (h : noReset s.schedule s.hostQ → IgnoresDraws turn s) : IgnoresDraws turn s :=
  fun hno => h hno hno

/-- Two turns in a row: if the second leaves QNAN clear, so does the first. -/
theorem IgnoresDraws.seq {both : State → Host.Outcome State Fault Refusal} (h : IgnoresDraws turn s)
    (h' : ∀ u, turn s = .next u → IgnoresDraws turn' u)
    (hboth : ∀ v t, both v = .next t ↔ ∃ u, turn v = .next u ∧ turn' u = .next t) : IgnoresDraws both s := by
  intro hno t ht
  obtain ⟨u, hu, ht⟩ := (hboth s t).1 ht
  have hfirst := h hno u hu
  have hsecond := h' u hu hfirst.plans t ht
  refine ⟨hsecond.plans, hsecond.qnan ∘ hfirst.qnan, fun d hq => (hboth _ _).2 ⟨_, hfirst.free d ?_, hsecond.free d hq⟩⟩
  exact Bool.eq_false_of_not_eq_true fun hset => by simp [hsecond.qnan hset] at hq

theorem IgnoresDraws.after (hf : OpIgnoresDraws f s) (h : IgnoresDraws turn (f s)) :
    IgnoresDraws (fun u => turn (f u)) s :=
  hf.seq (by rintro _ ⟨⟩; exact h) fun v t => by simp

theorem OpIgnoresDraws.comp (hf : OpIgnoresDraws f s) (hg : OpIgnoresDraws g (f s)) :
    OpIgnoresDraws (fun u => g (f u)) s :=
  IgnoresDraws.after (turn := fun u => .next (g u)) hf hg

end Turns

/-! ### The operations -/

section Operations

variable (s : State)

theorem ignoresDraws_raiseFault (c : ErrCode) : OpIgnoresDraws (raiseFault c) s := .of_update

theorem ignoresDraws_busWrite (off : BitVec 8) (data : Word) : OpIgnoresDraws (busWrite off data) s := by
  unfold busWrite
  cases regAt off with
  | none => exact .of_update
  | some r => exact .ite (fun _ => by cases r <;> exact .of_update) fun _ => .of_update

theorem ignoresDraws_checkConfig (d : Decoder) : OpIgnoresDraws (checkConfig d) s := by
  refine .of_update fun _ => ?_
  simp only [checkConfig, withDraws_cfgMod, withDraws_cfgEnc, withDraws_cfgNch]
  cases modOf s.cfgMod with
  | none => exact ⟨id, rfl, rfl⟩
  | some mod =>
    dsimp only
    split_ifs <;> exact ⟨id, rfl, rfl⟩

theorem ignoresDraws_takeInput : OpIgnoresDraws takeInput s := by
  refine .of_update fun _ => ?_
  simp only [takeInput]
  rcases s.offered with _ | _ | _ | _ <;> exact ⟨id, rfl, rfl⟩

theorem ignoresDraws_endFill : OpIgnoresDraws endFill s := .ite (fun _ => .of_update) fun _ => .of_update

theorem ignoresDraws_fillStep : OpIgnoresDraws fillStep s :=
  .ite (fun _ => ignoresDraws_endFill s) fun _ => ignoresDraws_takeInput s

theorem ignoresDraws_decodeBlock (d : Decoder) (cap : Option Nat) (mod : Mod) :
    OpIgnoresDraws (decodeBlock d cap mod) s :=
  .ite (fun _ => ignoresDraws_raiseFault s _) fun _ => .ite (fun _ => ignoresDraws_raiseFault s _) fun _ => .of_update

/-- The one operation that draws a word sets QNAN with it. -/
theorem ignoresDraws_quantize (squared : Bool) (x : F32) : OpIgnoresDraws (quantize squared x) s := by
  cases hx : isNaN x with
  | false =>
    refine .of_update fun _ => ?_
    simp [quantize_of_not_nan squared _ hx]
  | true =>
    rintro hno _ ⟨⟩
    have hset : (quantize squared x s).qnan = true := by rw [quantize_qnan, hx, Bool.or_true]
    refine ⟨?_, fun _ => hset, fun d hq => ?_⟩
    · rw [quantize_frame]
      exact hno
    · rw [hset] at hq
      cases hq

theorem ignoresDraws_stageMono : OpIgnoresDraws stageMono s :=
  ((ignoresDraws_quantize s s.cfgSq (s.audLAt s.i.toNat)).comp
    (g := fun t => stageBytes (pcmBytes t.qword) t) .of_update).congr fun _ => rfl

/-- The second half of STAGE of a stereo frame (`stageStereo_eq_stageRight`): the right word, and the bytes of both. -/
def stageRight (squared : Bool) (right : F32) (t : State) : State :=
  let u := quantize squared right t
  stageBytes (pcmBytes t.qword ++ pcmBytes u.qword) u

theorem stageStereo_eq_stageRight : stageStereo s =
    stageRight s.cfgSq (s.audRAt s.i.toNat) (quantize s.cfgSq (s.audLAt s.i.toNat) s) := rfl

theorem ignoresDraws_stageRight (squared : Bool) (right : F32) : OpIgnoresDraws (stageRight squared right) s :=
  ((ignoresDraws_quantize s squared right).comp
    (g := fun u => stageBytes (pcmBytes s.qword ++ pcmBytes u.qword) u) .of_update).congr fun _ => rfl

theorem ignoresDraws_stageStereo : OpIgnoresDraws stageStereo s :=
  ((ignoresDraws_quantize s s.cfgSq (s.audLAt s.i.toNat)).comp
    (ignoresDraws_stageRight _ s.cfgSq (s.audRAt s.i.toNat))).congr fun d => stageStereo_eq_stageRight (s.withDraws d)

theorem ignoresDraws_writeByte : OpIgnoresDraws writeByte s := by
  refine .of_update fun _ => ?_
  simp only [writeByte, acceptByte]
  rcases s.answer with _ | _ | _
  · exact ⟨id, rfl, rfl⟩
  · dsimp only
    split_ifs <;> exact ⟨id, rfl, rfl⟩
  · exact ⟨id, rfl, rfl⟩

theorem ignoresDraws_emitStep {stage : State → State} (hstage : OpIgnoresDraws stage s) :
    OpIgnoresDraws (emitStep stage) s :=
  .ite (fun _ => ignoresDraws_writeByte s) fun _ => .ite (fun _ => hstage) fun _ =>
    .ite (fun _ => .of_update) fun _ => .of_update

theorem ignoresDraws_producerTurn : OpIgnoresDraws producerTurn s := by
  refine .of_update fun _ => ?_
  simp only [producerTurn]
  split <;> exact ⟨id, rfl, rfl⟩

theorem ignoresDraws_consumerTurn : OpIgnoresDraws consumerTurn s := by
  refine .of_update fun _ => ?_
  simp only [consumerTurn, withDraws_offersByte]
  split <;> exact ⟨id, rfl, rfl⟩

/-- Every operation but SRST, which clears QNAN. -/
theorem ignoresDraws_exec {i : Instr} (hi : i ≠ .srst) : IgnoresDraws (exec i) s := by
  cases i with
  | srst => exact absurd rfl hi
  | start => exact OpIgnoresDraws.ite (fun _ => .of_update) fun _ => .of_update
  | regWr off data => exact ignoresDraws_busWrite s off data
  | regRd off => exact OpIgnoresDraws.of_update
  | check => exact ignoresDraws_checkConfig s _
  | decInit =>
    cases hm : modOf s.cfgMod with
    | none =>
      intro _ t ht
      rw [exec_decInit_of_no_variant hm] at ht
      cases ht
    | some mod =>
      exact IgnoresDraws.congr (OpIgnoresDraws.of_update (f := constructDecoder Config.decoder mod)) fun d =>
        exec_decInit_of_modOf (s := s.withDraws d) hm
  | readBlock => exact ignoresDraws_fillStep s
  | normU8 | normI16 => exact OpIgnoresDraws.of_update
  | decodeAm | decodeWbfm | decodeNbfm => exact ignoresDraws_decodeBlock s _ _ _
  | emitMono => exact ignoresDraws_emitStep s (ignoresDraws_stageMono s)
  | emitStereo => exact ignoresDraws_emitStep s (ignoresDraws_stageStereo s)
  | quantLin => exact (ignoresDraws_quantize s false (s.audLAt s.i.toNat)).congr fun _ => rfl
  | quantSq => exact (ignoresDraws_quantize s true (s.audLAt s.i.toNat)).congr fun _ => rfl

end Operations

/-! ### The turns and the run -/

section Run

variable (s : State)

theorem ignoresDraws_coreTurn : IgnoresDraws coreTurn s := by
  cases hp : s.phase.hasCoreStep with
  | false =>
    exact IgnoresDraws.congr (turn := .next) OpIgnoresDraws.of_update fun d => coreTurn_of_not_hasCoreStep hp
  | true =>
    cases hi : decodeOsw s.osw with
    | error e =>
      intro _ t ht
      simp [coreTurn, hp, hi] at ht
    | ok i =>
      have hne : i ≠ .srst := by
        rintro rfl
        cases decodeOsw_selects hi
      exact (ignoresDraws_exec s hne).congr fun d => coreTurn_of_decodeOsw hp hi

theorem ignoresDraws_hostTurn : IgnoresDraws hostTurn s := by
  refine .of_noReset fun ⟨hturns, hhost⟩ => ?_
  cases hq : s.hostQ with
  | nil => exact IgnoresDraws.congr (turn := .next) OpIgnoresDraws.of_update fun d => by simp only [hostTurn, hq]
  | cons w rest =>
    rw [hq, List.forall_mem_cons] at hhost
    obtain ⟨hw, hrest⟩ := hhost
    have hdrop : OpIgnoresDraws (fun u => { u with hostQ := rest }) s :=
      .of_update fun _ => ⟨fun _ => ⟨hturns, hrest⟩, rfl, rfl⟩
    exact (hdrop.after (ignoresDraws_exec _ hw)).congr fun d => by simp only [hostTurn, hq]

theorem ignoresDraws_takeTurn {turn : Turn} (h : turn ≠ .reset) : IgnoresDraws (takeTurn turn) s := by
  cases turn with
  | core => exact ignoresDraws_coreTurn s
  | host => exact ignoresDraws_hostTurn s
  | producer => exact ignoresDraws_producerTurn s
  | consumer => exact ignoresDraws_consumerTurn s
  | reset => exact absurd rfl h

theorem ignoresDraws_step : IgnoresDraws step s := by
  refine .of_noReset fun ⟨hturns, hhost⟩ => ?_
  cases hs : s.schedule with
  | nil => exact (ignoresDraws_coreTurn s).congr fun d => step_of_empty_schedule hs
  | cons turn turns =>
    rw [hs, List.mem_cons, not_or] at hturns
    obtain ⟨hturn, hturns⟩ := hturns
    have hdrop : OpIgnoresDraws (fun u => { u with schedule := turns }) s :=
      .of_update fun _ => ⟨fun _ => ⟨hturns, hhost⟩, rfl, rfl⟩
    exact (hdrop.after (ignoresDraws_takeTurn _ (Ne.symm hturn))).congr fun d => step_of_schedule hs

theorem ignoresDraws_run (k : Nat) : IgnoresDraws (Sys2Proof.core.run k) s := by
  induction k generalizing s with
  | zero => exact OpIgnoresDraws.of_update (f := id)
  | succ k ih =>
    exact (ignoresDraws_step s).seq (fun u _ => ih u) fun v t =>
      ⟨run_succ_cases, fun ⟨u, hstep, hrun⟩ => (run_succ k hstep).trans hrun⟩

end Run

/-- Settles O44: no step of the run draws a word, for the first to do so would set QNAN for good. -/
theorem runsWithoutNaNDoNotDependOnDraws : Obligations.RunsWithoutNaNDoNotDependOnDraws := by
  unfold Obligations.RunsWithoutNaNDoNotDependOnDraws
  intro k s t d hturns hhost hrun hq
  exact (ignoresDraws_run s k ⟨hturns, hhost⟩ t hrun).free d hq

end Sys2Proof.Machine

/-! PROOFS. The output quantizer (spec/42_quantizer.md): a rounding never passes a magnitude, so scaling keeps the sign
of a sample and maps [-1, 1] into the range of the clip; both conversions are monotone and fix integers, so the clip
acts on the integer as on the float; and the fields that QUANT and STAGE write. -/

namespace Sys2Proof.Machine

/-! ### A rounding never passes a magnitude -/

/-- The nearest magnitude to `u` lies on the same side of every other magnitude as `u` does. -/
theorem NoFarther.le_of_le {u : ℝ} {r n : Nat} (h : NoFarther unitsOf u r n) (hu : u ≤ unitsOf n) : r ≤ n := by
  obtain ⟨hnear, -⟩ := h
  by_contra hlt
  have hpast : (unitsOf n : ℝ) < unitsOf r := Nat.cast_lt.mpr (unitsOf_strictMono (not_le.mp hlt))
  rw [abs_of_pos (by linarith), abs_of_nonneg (by linarith)] at hnear
  linarith

theorem NoFarther.le_of_ge {u : ℝ} {r n : Nat} (h : NoFarther unitsOf u r n) (hu : unitsOf n ≤ u) : n ≤ r := by
  obtain ⟨hnear, -⟩ := h
  by_contra hlt
  have hpast : (unitsOf r : ℝ) < unitsOf n := Nat.cast_lt.mpr (unitsOf_strictMono (not_le.mp hlt))
  rw [abs_of_neg (by linarith), abs_of_nonpos (by linarith)] at hnear
  linarith

theorem realBits_le_of_le_unitsOf {u : ℝ} (hu : 0 ≤ u) {n : Nat} (h : u ≤ unitsOf n) : realBits u ≤ n := by
  obtain ⟨e, hlo, hhi, heq⟩ := exists_exponent hu
  exact heq ▸ (min_le_left _ _).trans ((rounded_noFarther hu hlo hhi n).le_of_le h)

theorem le_realBits_of_unitsOf_le {u : ℝ} {n : Nat} (hn : n ≤ infBits) (h : unitsOf n ≤ u) : n ≤ realBits u := by
  have hu : 0 ≤ u := (Nat.cast_nonneg _).trans h
  obtain ⟨e, hlo, hhi, heq⟩ := exists_exponent hu
  exact heq ▸ le_min ((rounded_noFarther hu hlo hhi n).le_of_ge h) hn

/-! ### Comparisons with an integer -/

theorem fLt_iff_signedUnits {a b : F32} (ha : isNaN a = false) (hb : isNaN b = false) :
    fLt a b = true ↔ signedUnits a < signedUnits b := by
  rw [fLt_of_not_isNaN ha hb, decide_eq_true_iff, orderKey_lt_iff]

theorem fLt_eq_false_iff_signedUnits {a b : F32} (ha : isNaN a = false) (hb : isNaN b = false) :
    fLt a b = false ↔ signedUnits b ≤ signedUnits a := by
  rw [← not_lt, ← fLt_iff_signedUnits ha hb, Bool.not_eq_true]

theorem signedUnits_toF32 {v : Int} (hv : v.natAbs < 2 ^ 24) : signedUnits (toF32 v) = v * unitsPerOne := by
  have h := represents_toF32 hv
  rw [signedUnits, h.signOf, h.magOf, Nat.cast_mul]
  by_cases hneg : v < 0
  · rw [if_pos (decide_eq_true hneg), Int.ofNat_natAbs_of_nonpos hneg.le, neg_mul, neg_neg]
  · rw [if_neg (by simpa using hneg), Int.natAbs_of_nonneg (not_lt.mp hneg)]

theorem toF32_zero_fLt_iff {x : F32} (hx : isNaN x = false) :
    fLt (toF32 0) x = true ↔ signOf x = false ∧ magBits x ≠ 0 := by
  have hzero : orderKey (toF32 0) = 0 := by decide
  rw [fLt_of_not_isNaN (by decide) hx, decide_eq_true_iff, hzero, orderKey]
  cases signOf x <;> simp [Nat.pos_iff_ne_zero]

theorem fLt_toF32_zero_iff {x : F32} (hx : isNaN x = false) :
    fLt x (toF32 0) = true ↔ signOf x = true ∧ magBits x ≠ 0 := by
  have hzero : orderKey (toF32 0) = 0 := by decide
  rw [fLt_of_not_isNaN hx (by decide), decide_eq_true_iff, hzero, orderKey]
  cases signOf x <;> simp [Nat.pos_iff_ne_zero]

/-! ### The scaled sample -/

theorem represents_qScale : Represents (toF32 Config.qScale) false (32767 * unitsPerOne) :=
  represents_toF32 (v := 32767) (by decide)

theorem scaleSample_of_finite {x : F32} (hx : isNaN x = false) (hfin : isInf x = false) :
    scaleSample x = signed (signOf x) (realBits ((magOf x * 32767 : Nat) : ℝ)) := by
  have hq := represents_qScale
  have hquot : ((magOf x * (32767 * unitsPerOne) : Nat) : ℝ) / unitsPerOne = (magOf x * 32767 : Nat) := by
    rw [← Nat.mul_assoc, Nat.cast_mul, mul_div_cancel_right₀ _ cast_unitsPerOne_pos.ne']
  rw [scaleSample, fmul_of_finite hx hq.isNaN hfin hq.isInf, hq.signOf, hq.magOf, Bool.xor_false, hquot]

theorem scaleSample_of_isInf {x : F32} (h : isInf x = true) : scaleSample x = signed (signOf x) infBits := by
  have hq := represents_qScale
  have hbits : magBits x ≠ 0 := by rw [(isInf_iff x).mp h]; decide
  have hqbits : magBits (toF32 Config.qScale) ≠ 0 := by decide
  simp [scaleSample, fmul, isNaN_of_isInf h, h, hq.isNaN, hq.signOf, hbits, hqbits]

/-- The scaled sample has the sign of the sample, and is zero for a zero only: no product underflows
(spec/42_quantizer.md R161). -/
theorem scaleSample_eq_signed {x : F32} (hx : isNaN x = false) :
    ∃ bits ≤ infBits, scaleSample x = signed (signOf x) bits ∧ (bits = 0 ↔ magBits x = 0) := by
  cases hinf : isInf x with
  | true =>
    refine ⟨infBits, le_rfl, scaleSample_of_isInf hinf, ?_⟩
    rw [(isInf_iff x).mp hinf]
  | false =>
    refine ⟨_, realBits_le_infBits _, scaleSample_of_finite hx hinf, fun h => ?_, fun h => ?_⟩
    · have hgrows : magBits x ≤ realBits ((magOf x * 32767 : Nat) : ℝ) :=
        le_realBits_of_unitsOf_le ((isNaN_eq_false_iff x).mp hx)
          (Nat.cast_le.mpr (Nat.le_mul_of_pos_right (magOf x) (by decide)))
      omega
    · rw [magOf_eq_unitsOf, h]
      exact Nat.le_zero.mp (realBits_le_of_le_unitsOf (Nat.cast_nonneg _) (by simp [unitsOf]))

theorem isNaN_scaleSample {x : F32} (hx : isNaN x = false) : isNaN (scaleSample x) = false := by
  obtain ⟨bits, hle, h, -⟩ := scaleSample_eq_signed hx
  rwa [h, isNaN_eq_false_iff, magBits_signed _ (hle.trans_lt (by decide))]

theorem signOf_scaleSample {x : F32} (hx : isNaN x = false) : signOf (scaleSample x) = signOf x := by
  obtain ⟨bits, hle, h, -⟩ := scaleSample_eq_signed hx
  rw [h, signOf_signed _ (hle.trans_lt (by decide))]

theorem magBits_scaleSample_eq_zero_iff {x : F32} (hx : isNaN x = false) :
    magBits (scaleSample x) = 0 ↔ magBits x = 0 := by
  obtain ⟨bits, hle, h, hzero⟩ := scaleSample_eq_signed hx
  rw [h, magBits_signed _ (hle.trans_lt (by decide)), hzero]

/-- A sample of magnitude at most 1 is scaled to a magnitude of at most 32767. -/
theorem magOf_scaleSample_le {x : F32} (hx : isNaN x = false) (hfin : isInf x = false) (h : magOf x ≤ unitsPerOne) :
    magOf (scaleSample x) ≤ 32767 * unitsPerOne := by
  have hq : unitsOf (magBits (toF32 Config.qScale)) = 32767 * unitsPerOne := represents_qScale.magOf
  have hbound : magOf x * 32767 ≤ unitsOf (magBits (toF32 Config.qScale)) := by omega
  rw [magOf_eq_unitsOf, scaleSample_of_finite hx hfin, magBits_signed_realBits, ← hq, unitsOf_strictMono.le_iff_le]
  exact realBits_le_of_le_unitsOf (Nat.cast_nonneg _) (Nat.cast_le.mpr hbound)

/-! ### The conversion and the clip -/

/-- The conversion of a magnitude in units of 2^-149, of which `convert` is the odd continuation (`convert_eq`). -/
def convertUnits : RoundMode → Nat → Nat
  | .trunc, units => units / unitsPerOne
  | .rne, units => rneDiv units unitsPerOne

theorem convert_eq (mode : RoundMode) (y : F32) :
    convert mode y = if signOf y then -(convertUnits mode (magOf y) : Int) else convertUnits mode (magOf y) := by
  cases mode <;> rfl

/-- Equal quotients are ordered by their remainders; a smaller quotient is rounded up at most to the greater one. -/
theorem rneDiv_mono {den m n : Nat} (h : m ≤ n) : rneDiv m den ≤ rneDiv n den := by
  have hquot : m / den ≤ n / den := Nat.div_le_div_right h
  have hm := Nat.div_add_mod m den
  have hn := Nat.div_add_mod n den
  obtain heq | hlt := hquot.eq_or_lt
  · rw [heq] at hm
    simp only [rneDiv, heq]
    split_ifs <;> omega
  · simp only [rneDiv]
    split_ifs <;> omega

theorem convertUnits_mono (mode : RoundMode) {m n : Nat} (h : m ≤ n) : convertUnits mode m ≤ convertUnits mode n := by
  cases mode with
  | trunc => exact Nat.div_le_div_right h
  | rne => exact rneDiv_mono h

@[simp] theorem convertUnits_mul (mode : RoundMode) (k : Nat) : convertUnits mode (k * unitsPerOne) = k := by
  have hquot : k * unitsPerOne / unitsPerOne = k := Nat.mul_div_cancel k unitsPerOne_pos
  cases mode with
  | trunc => exact hquot
  | rne => simp [convertUnits, rneDiv, hquot, unitsPerOne_pos.ne]

/-- Both conversions are monotone (spec/42_quantizer.md R162). A value with a clear sign is at most one with a set sign
only where both are zeros. -/
theorem convert_mono (mode : RoundMode) {a b : F32} (h : signedUnits a ≤ signedUnits b) :
    convert mode a ≤ convert mode b := by
  have hzero : convertUnits mode 0 = 0 := by simpa using convertUnits_mul mode 0
  rw [convert_eq, convert_eq]
  unfold signedUnits at h
  cases ha : signOf a <;> cases hb : signOf b <;> simp only [ha, hb, if_true, if_false, Bool.false_eq_true] at h ⊢
  · exact Int.ofNat_le.mpr (convertUnits_mono mode (by omega))
  · have ha0 : magOf a = 0 := by omega
    have hb0 : magOf b = 0 := by omega
    simp [ha0, hb0, hzero]
  · omega
  · exact neg_le_neg (Int.ofNat_le.mpr (convertUnits_mono mode (by omega)))

/-- Both conversions fix integers (spec/42_quantizer.md R162). -/
theorem convert_toF32 (mode : RoundMode) {v : Int} (hv : v.natAbs < 2 ^ 24) : convert mode (toF32 v) = v := by
  have h := represents_toF32 hv
  rw [convert_eq, h.signOf, h.magOf, convertUnits_mul]
  simp only [decide_eq_true_eq]
  split_ifs <;> omega

/-- Clipping the float is clipping the integer, even where the float is an infinity. -/
theorem convert_clip (mode : RoundMode) {y : F32} (hy : isNaN y = false) :
    convert mode (clip y) = max (-32767) (min 32767 (convert mode y)) := by
  have hmax : convert mode (toF32 Config.qMax) = 32767 := convert_toF32 mode (v := 32767) (by decide)
  have hmin : convert mode (toF32 Config.qMin) = -32767 := convert_toF32 mode (v := -32767) (by decide)
  have hmaxNaN : isNaN (toF32 Config.qMax) = false := by decide
  have hminNaN : isNaN (toF32 Config.qMin) = false := by decide
  unfold clip
  split_ifs with hhigh hlow
  · have := convert_mono mode ((fLt_iff_signedUnits hmaxNaN hy).mp hhigh).le
    omega
  · have := convert_mono mode ((fLt_iff_signedUnits hy hminNaN).mp hlow).le
    omega
  · rw [Bool.not_eq_true] at hhigh hlow
    have := convert_mono mode ((fLt_eq_false_iff_signedUnits hmaxNaN hy).mp hhigh)
    have := convert_mono mode ((fLt_eq_false_iff_signedUnits hy hminNaN).mp hlow)
    omega

/-- The clip keeps a value of magnitude at most 32767. -/
theorem clip_of_magOf_le {y : F32} (hy : isNaN y = false) (h : magOf y ≤ 32767 * unitsPerOne) : clip y = y := by
  have hmax : signedUnits (toF32 Config.qMax) = 32767 * unitsPerOne := signedUnits_toF32 (v := 32767) (by decide)
  have hmin : signedUnits (toF32 Config.qMin) = -32767 * unitsPerOne := signedUnits_toF32 (v := -32767) (by decide)
  have hrange : -(magOf y : Int) ≤ signedUnits y ∧ signedUnits y ≤ magOf y := by
    unfold signedUnits
    split_ifs <;> omega
  have hhigh : fLt (toF32 Config.qMax) y = false := (fLt_eq_false_iff_signedUnits (by decide) hy).mpr (by omega)
  have hlow : fLt y (toF32 Config.qMin) = false := (fLt_eq_false_iff_signedUnits hy (by decide)).mpr (by omega)
  rw [clip, hhigh, hlow]
  rfl

/-! ### The scalar quantizer's integer -/

theorem linValue_eq_clipped (mode : RoundMode) {x : F32} (hx : isNaN x = false) :
    linValue mode x = max (-32767) (min 32767 (convert mode (scaleSample x))) :=
  convert_clip mode (isNaN_scaleSample hx)

/-- For x in [-1, 1] the clip does not act. -/
theorem clip_scaleSample {x : F32} (hx : isNaN x = false) (hhi : fLt (toF32 1) x = false)
    (hlo : fLt x (toF32 (-1)) = false) : clip (scaleSample x) = scaleSample x := by
  rw [fLt_eq_false_iff_signedUnits (by decide) hx, signedUnits_toF32 (by decide)] at hhi
  rw [fLt_eq_false_iff_signedUnits hx (by decide), signedUnits_toF32 (by decide)] at hlo
  have hmag : magOf x ≤ unitsPerOne := by
    unfold signedUnits at hhi hlo
    split_ifs at hhi hlo <;> omega
  have hfin : isInf x = false := by
    have hone : magOf (toF32 1) = unitsPerOne := by decide
    have hbits : magBits (toF32 1) < infBits := by decide
    rw [← hone, magOf_eq_unitsOf, magOf_eq_unitsOf, unitsOf_strictMono.le_iff_le] at hmag
    exact (isInf_eq_false_iff x).mpr (by omega)
  exact clip_of_magOf_le (isNaN_scaleSample hx) (magOf_scaleSample_le hx hfin hmag)

theorem truncF_clip_toF32 {v : Int} (hv : v.natAbs ≤ 32767) : truncF (clip (toF32 v)) = v := by
  have hbound : v.natAbs < 2 ^ 24 := by omega
  have h := convert_clip .trunc (represents_toF32 hbound).isNaN
  rw [convert_toF32 .trunc hbound] at h
  exact h.trans (by omega)

/-- The hard limit tests the scaled sample, which has the sign of the sample. -/
theorem sqValue_eq {x : F32} (hx : isNaN x = false) :
    sqValue x = if fLt (toF32 0) x then 32767 else if fLt x (toF32 0) then -32767 else 0 := by
  have hpos : fLt (toF32 0) (scaleSample x) = fLt (toF32 0) x := by
    rw [Bool.eq_iff_iff, toF32_zero_fLt_iff (isNaN_scaleSample hx), toF32_zero_fLt_iff hx, signOf_scaleSample hx, ne_eq,
      magBits_scaleSample_eq_zero_iff hx]
  have hneg : fLt (scaleSample x) (toF32 0) = fLt x (toF32 0) := by
    rw [Bool.eq_iff_iff, fLt_toF32_zero_iff (isNaN_scaleSample hx), fLt_toF32_zero_iff hx, signOf_scaleSample hx, ne_eq,
      magBits_scaleSample_eq_zero_iff hx]
  rw [sqValue, hardLimit, hpos, hneg]
  split_ifs
  · exact truncF_clip_toF32 (v := 32767) (by decide)
  · exact truncF_clip_toF32 (v := -32767) (by decide)
  · exact truncF_clip_toF32 (v := 0) (by decide)

/-- Settles O21: the clip acts on the integer as on the float, and scaling maps [-1, 1] into its range. -/
theorem quantizerStaysInRangeAndClips : Obligations.QuantizerStaysInRangeAndClips := by
  unfold Obligations.QuantizerStaysInRangeAndClips
  intro x hx
  refine ⟨fun mode => ?linRange, ?sqRange, fun mode _ => linValue_eq_clipped mode hx, rfl, by decide,
    fun hhi hlo => ?noClip⟩
  case linRange =>
    rw [linValue_eq_clipped mode hx]
    omega
  case sqRange =>
    rw [sqValue_eq hx]
    split_ifs <;> decide
  case noClip =>
    have hclip := clip_scaleSample hx hhi hlo
    exact ⟨hclip, congrArg truncF hclip⟩

/-- Settles O22: the integer of squared mode is read off the sign of the sample. -/
theorem squaredModeKeepsOnlyTheSign : Obligations.SquaredModeKeepsOnlyTheSign := by
  unfold Obligations.SquaredModeKeepsOnlyTheSign
  intro x hx
  rw [sqValue_eq hx]
  refine ⟨fun hpos => if_pos hpos, fun hneg => ?negative, fun hzero => ?zero⟩
  case negative =>
    obtain ⟨hsign, -⟩ := (fLt_toF32_zero_iff hx).mp hneg
    rw [if_neg (by simp [toF32_zero_fLt_iff hx, hsign]), if_pos hneg]
  case zero =>
    have hbits : magBits x = 0 := by rcases hzero with rfl | rfl <;> rfl
    rw [if_neg (by simp [toF32_zero_fLt_iff hx, hbits]), if_neg (by simp [fLt_toF32_zero_iff hx, hbits])]

/-! ### QUANT and STAGE -/

theorem quantize_of_nan {x : F32} (squared : Bool) (s : State) (h : isNaN x = true) :
    quantize squared x s = { s with qnan := true, qword := Config.nanWord s.draws, draws := s.draws + 1 } := if_pos h

theorem quantize_draws_of_not_nan {x : F32} (squared : Bool) (s : State) (hx : isNaN x = false) :
    (quantize squared x s).draws = s.draws := by
  rw [quantize_of_not_nan squared s hx]

theorem quantize_qword_of_not_nan {x : F32} (squared : Bool) (s : State) (hx : isNaN x = false) :
    (quantize squared x s).qword = BitVec.ofInt 16 (if squared then sqValue x else linValue .trunc x) := by
  rw [quantize_of_not_nan squared s hx]
  rfl

/-- Settles O20: the sample named is the one at I, and a NaN sets QNAN whatever word is drawn. -/
theorem quantReturnsOneWord : Obligations.QuantReturnsOneWord := by
  unfold Obligations.QuantReturnsOneWord
  intro s x hread
  have hlin : exec .quantLin s = .next (quantize false x s) := by rw [← audLAt_eq hread]; rfl
  have hsq : exec .quantSq s = .next (quantize true x s) := by rw [← audLAt_eq hread]; rfl
  rw [hlin, hsq]
  refine ⟨fun hx => ?number, fun hx => ⟨Config.nanWord s.draws, s.draws + 1, ?nan⟩⟩
  case number =>
    rw [quantize_of_not_nan false s hx, quantize_of_not_nan true s hx]
    exact ⟨rfl, rfl⟩
  case nan =>
    rw [quantize_of_nan false s hx, quantize_of_nan true s hx]
    exact ⟨rfl, rfl⟩

/-- STAGE of a mono frame quantizes the left sample and puts the bytes of its word into OST. -/
theorem stageMono_eq (s : State) : stageMono s =
    let t := quantize s.cfgSq (s.audLAt s.i.toNat) s
    { s with
      ost := s.ost.writeFrom 0 (pcmBytes t.qword), olen := 2, opos := 0, qnan := t.qnan, qword := t.qword
      draws := t.draws } := by
  rw [stageMono, quantize_frame]
  rfl

/-- STAGE of a stereo frame quantizes the left sample, then the right one, and puts the bytes of both words into OST. -/
theorem stageStereo_eq (s : State) : stageStereo s =
    let t := quantize s.cfgSq (s.audLAt s.i.toNat) s
    let u := quantize s.cfgSq (s.audRAt s.i.toNat) t
    { s with
      ost := s.ost.writeFrom 0 (pcmBytes t.qword ++ pcmBytes u.qword), olen := 4, opos := 0, qnan := u.qnan
      qword := u.qword, draws := u.draws } := by
  rw [stageStereo, quantize_frame s.cfgSq (s.audRAt s.i.toNat), quantize_frame s.cfgSq (s.audLAt s.i.toNat) s]
  rfl

theorem read_writeFrom_pcmBytes (mem : Memory Byte) (q : PcmWord) (k : Nat) :
    (mem.writeFrom 0 (pcmBytes q)).read k =
      if k = 0 then some (q.extractLsb' 0 8) else if k = 1 then some (q.extractLsb' 8 8) else mem.read k := by
  rw [read_writeFrom_zero]
  match k with
  | 0 | 1 => rfl
  | k + 2 => simp [pcmBytes]

theorem read_writeFrom_pcmBytes_append (mem : Memory Byte) (ql qr : PcmWord) (k : Nat) :
    (mem.writeFrom 0 (pcmBytes ql ++ pcmBytes qr)).read k =
      if k = 0 then some (ql.extractLsb' 0 8) else if k = 1 then some (ql.extractLsb' 8 8)
      else if k = 2 then some (qr.extractLsb' 0 8) else if k = 3 then some (qr.extractLsb' 8 8)
      else mem.read k := by
  rw [read_writeFrom_zero]
  match k with
  | 0 | 1 | 2 | 3 => rfl
  | k + 4 => simp [pcmBytes]

/-- Settles O16: the EMIT step is STAGE, which writes the two bytes of the word of the sample at I. -/
theorem emitMonoStagesTheLeftWord : Obligations.EmitMonoStagesTheLeftWord := by
  unfold Obligations.EmitMonoStagesTheLeftWord
  intro s x ho hi hread
  have hexec : exec .emitMono s = .next _ :=
    congrArg Host.Outcome.next ((emitStep_stage stageMono ho hi).trans (stageMono_eq s))
  rw [audLAt_eq hread] at hexec
  refine ⟨_, (quantize s.cfgSq x s).qword, hexec, ?frame,
    fun hx => ⟨quantize_draws_of_not_nan _ s hx, quantize_qword_of_not_nan _ s hx⟩, read_writeFrom_pcmBytes _ _⟩
  case frame => simp only [quantize_qnan]

/-- Settles O17: each of the two words is that of its own sample, whatever the other one sets. -/
theorem emitStereoStagesLeftThenRight : Obligations.EmitStereoStagesLeftThenRight := by
  unfold Obligations.EmitStereoStagesLeftThenRight
  intro s x y ho hi hleft hright
  have hexec : exec .emitStereo s = .next _ :=
    congrArg Host.Outcome.next ((emitStep_stage stageStereo ho hi).trans (stageStereo_eq s))
  rw [audLAt_eq hleft, audRAt_eq hright] at hexec
  refine ⟨_, (quantize s.cfgSq x s).qword, (quantize s.cfgSq y (quantize s.cfgSq x s)).qword,
    hexec, ?frame, quantize_qword_of_not_nan _ _,
    quantize_qword_of_not_nan _ _, fun hx hy => ?draws, read_writeFrom_pcmBytes_append _ _ _⟩
  case frame => simp only [quantize_qnan]
  case draws => exact (quantize_draws_of_not_nan _ _ hy).trans (quantize_draws_of_not_nan _ s hx)

end Sys2Proof.Machine

/-! PROOFS. Block streaming (spec/43_streaming.md): READ.BLOCK and a whole fill, FINISH, where the Core waits, what leaves
DONE and FAULT, and the counts of a run that reaches DONE. -/

namespace Sys2Proof.Machine

/-! ### The fill, one item a step -/

theorem fillStep_of_end {s : State} (h : s.n = s.blksz ∨ s.eos = true) : fillStep s = endFill s := if_pos h

theorem fillStep_of_room {s : State} (h : ¬(s.n = s.blksz ∨ s.eos = true)) : fillStep s = takeInput s := if_neg h

theorem endFill_of_empty {s : State} (h : s.n = 0) :
    endFill s = { s with lastn := s.n, phase := .done, oclosed := true } := if_pos h

theorem endFill_of_ne {s : State} (h : s.n ≠ 0) : endFill s = { s with lastn := s.n, phase := .norm } := if_neg h

section TakeInput

variable {s : State}

theorem takeInput_none (h : s.offered = none) : takeInput s = s := by
  simp only [takeInput, h]

theorem takeInput_byte {b : Byte} (h : s.offered = some (.byte b)) : takeInput s =
    { s with offered := none, raw := s.raw.write s.n.toNat b, n := s.n + 1, incnt := s.incnt + 1 } := by
  simp only [takeInput, h]

theorem takeInput_eos (h : s.offered = some .eos) : takeInput s = { s with offered := none, eos := true } := by
  simp only [takeInput, h]

theorem takeInput_err (h : s.offered = some .err) :
    takeInput s = { s with offered := none, err := .ioRd, phase := .fault, oclosed := true } := by
  simp only [takeInput, h]
  rfl

end TakeInput

/-- Settles O10: a fill ends in `endFill`, and otherwise READ.BLOCK takes the item offered. -/
theorem readBlockTakesOneItemOrEndsTheFill : Obligations.ReadBlockTakesOneItemOrEndsTheFill := by
  unfold Obligations.ReadBlockTakesOneItemOrEndsTheFill
  intro s ends
  have hend (h : ends) : exec .readBlock s = .next (endFill s) := congrArg _ (fillStep_of_end h)
  have htake (h : ¬ends) : exec .readBlock s = .next (takeInput s) := congrArg _ (fillStep_of_room h)
  refine ⟨fun h h0 => ?_, fun h h0 => ?_, fun h ho => ?_, fun h b ho => ⟨_, ?_, read_write _ _ _⟩, fun h ho => ?_,
    fun h ho => ?_⟩
  · rw [hend h, endFill_of_empty h0]
  · rw [hend h, endFill_of_ne h0]
  · rw [htake h, takeInput_none ho]
  · rw [htake h, takeInput_byte ho]
  · rw [htake h, takeInput_eos ho]
  · rw [htake h, takeInput_err ho]

/-! ### A whole fill -/

theorem endFill_eq (s : State) : endFill s = { s with
    lastn := s.n, phase := if s.n = 0 then .done else .norm, oclosed := if s.n = 0 then true else s.oclosed } := by
  unfold endFill
  split_ifs <;> rfl

theorem coreTurn_read {s : State} (hp : s.phase = .read) : coreTurn s = .next (fillStep s) := by
  rw [coreTurn, decodeOsw_osw, hp]
  rfl

theorem step_of_fill_end {s : State} {turns : List Turn} (hs : s.schedule = .core :: turns) (hp : s.phase = .read)
    (h : s.n = s.blksz ∨ s.eos = true) : step s = .next (endFill { s with schedule := turns }) := by
  rw [step_of_schedule hs]
  exact (coreTurn_read (by exact hp)).trans (congrArg _ (fillStep_of_end (by exact h)))

theorem step_of_fill_room {s : State} {turns : List Turn} (hs : s.schedule = .core :: turns) (hp : s.phase = .read)
    (h : ¬(s.n = s.blksz ∨ s.eos = true)) : step s = .next (takeInput { s with schedule := turns }) := by
  rw [step_of_schedule hs]
  exact (coreTurn_read (by exact hp)).trans (congrArg _ (fillStep_of_room (by exact h)))

/-- A state in READ in which the Producer is free to offer its next item. -/
structure Filling (s : State) : Prop where
  phase : s.phase = .read
  eos : s.eos = false
  offered : s.offered = none
  inEnded : s.inEnded = false

/-- The state after the bytes `bs` are offered and taken. -/
abbrev State.filledWith (s : State) (bs : List Byte) (items : List InItem) (turns : List Turn) : State :=
  { s with
    offered := none, inEnded := false, raw := s.raw.writeFrom s.n.toNat bs, n := s.n + BitVec.ofNat 32 bs.length,
    incnt := s.incnt + BitVec.ofNat 32 bs.length, producerQ := items, schedule := turns }

section Filling

variable {s : State} {items : List InItem} {turns : List Turn}

theorem Filling.filledWith (h : Filling s) (bs : List Byte) (items : List InItem) (turns : List Turn) :
    Filling (s.filledWith bs items turns) where
  phase := h.phase
  eos := h.eos
  offered := rfl
  inEnded := rfl

theorem Filling.filledWith_nil (h : Filling s) (hq : s.producerQ = items) (hs : s.schedule = turns) :
    s.filledWith [] items turns = s := by
  simp only [State.filledWith, Memory.writeFrom, List.length_nil, BitVec.add_zero, ← h.offered, ← h.inEnded, ← hq, ← hs]

theorem filledWith_cons (s : State) (b : Byte) (bs : List Byte) (items items' : List InItem) (turns turns' : List Turn)
    (hn : (s.n + 1).toNat = s.n.toNat + 1) :
    (s.filledWith [b] items' turns').filledWith bs items turns = s.filledWith (b :: bs) items turns := by
  have hadd (x : Word) : x + BitVec.ofNat 32 (b :: bs).length = x + 1 + BitVec.ofNat 32 bs.length := by
    rw [List.length_cons, Nat.add_comm, BitVec.ofNat_add, BitVec.add_assoc]
    rfl
  have hraw : s.raw.writeFrom s.n.toNat (b :: bs) =
      (s.raw.write s.n.toNat b).writeFrom (s.n + 1).toNat bs := by
    rw [hn, Memory.writeFrom]
  simp only [State.filledWith, hadd, hraw]
  rfl

/-- An item is offered and taken in two turns, the second of which is the Core's below BLKSZ. -/
theorem Filling.run_item (h : Filling s) (hn : s.n ≠ s.blksz) {x : InItem} (hq : s.producerQ = x :: items)
    (hs : s.schedule = .producer :: .core :: turns) (k : Nat) :
    Sys2Proof.core.run (k + 2) s = Sys2Proof.core.run k (takeInput { s with
      schedule := turns, offered := some x, producerQ := items, inEnded := endsStream x }) := by
  obtain ⟨hoffers, -⟩ := producerOffersInOrder s _ hs
  have hroom : ¬(s.n = s.blksz ∨ s.eos = true) := by simp [hn, h.eos]
  have hoffer := hoffers _ _ h.offered h.inEnded hq
  rw [← endsStream_eq] at hoffer
  rw [run_succ _ hoffer, run_succ _ (step_of_fill_room rfl (by exact h.phase) (by exact hroom))]

theorem Filling.run_byte (h : Filling s) (hn : s.n ≠ s.blksz) {b : Byte} (hq : s.producerQ = .byte b :: items)
    (hs : s.schedule = .producer :: .core :: turns) (k : Nat) :
    Sys2Proof.core.run (k + 2) s = Sys2Proof.core.run k (s.filledWith [b] items turns) := by
  rw [h.run_item hn hq hs, takeInput_byte rfl]
  rfl

/-- Bytes that RAW has room for are taken in order, with `k` items still to take. -/
theorem Filling.run_bytes (h : Filling s) {bs : List Byte} (k : Nat)
    (hroom : s.n.toNat + bs.length ≤ s.blksz.toNat) (hq : s.producerQ = bs.map .byte ++ items)
    (hs : s.schedule = fillTurns (bs.length + k) ++ turns) :
    Sys2Proof.core.run (fillTurns (bs.length + k)).length s =
      Sys2Proof.core.run (fillTurns k).length (s.filledWith bs items (fillTurns k ++ turns)) := by
  induction bs generalizing s with
  | nil =>
    rw [List.length_nil, Nat.zero_add] at hs ⊢
    exact congrArg _ (h.filledWith_nil hq hs).symm
  | cons b bs ih =>
    rw [List.length_cons] at hroom
    have hn : (s.n + 1).toNat = s.n.toNat + 1 := by bv_omega
    rw [← filledWith_cons s b bs items (bs.map .byte ++ items) _ (fillTurns (bs.length + k) ++ turns) hn]
    rw [List.length_cons, Nat.add_right_comm] at hs ⊢
    have hrest : (s.n + 1).toNat + bs.length ≤ s.blksz.toNat := by omega
    exact (h.run_byte (by bv_omega) hq hs _).trans (ih (h.filledWith _ _ _) hrest rfl rfl)

/-- EOS is offered and taken, and the Core's next turn ends the fill. -/
theorem Filling.run_eos (h : Filling s) (hn : s.n ≠ s.blksz) (hq : s.producerQ = .eos :: items)
    (hs : s.schedule = fillTurns 1 ++ turns) :
    Sys2Proof.core.run (fillTurns 1).length s = .next (endFill { s with
      schedule := turns, offered := none, producerQ := items, inEnded := true, eos := true }) := by
  have hitem := h.run_item hn hq hs (fillTurns 0).length
  rw [takeInput_eos rfl] at hitem
  exact hitem.trans (run_succ 0 (step_of_fill_end rfl (by exact h.phase) (.inr rfl)))

/-! The count of bytes of a fill that began at 0, and how it ends. -/

theorem toNat_fill_count (hn : s.n = 0) {bs : List Byte} (hle : bs.length ≤ s.blksz.toNat) :
    (s.n + BitVec.ofNat 32 bs.length).toNat = bs.length := by
  have hlt : bs.length < 2 ^ 32 := by omega
  simpa [hn] using hlt

theorem endFill_filledWith_phase (hn : s.n = 0) {bs : List Byte} (hle : bs.length ≤ s.blksz.toNat) (ended eos : Bool) :
    (endFill { s.filledWith bs items turns with inEnded := ended, eos := eos }).phase =
      if bs = [] then .done else .norm := by
  have hempty : s.n + BitVec.ofNat 32 bs.length = 0 ↔ bs = [] := by
    rw [← BitVec.toNat_inj, toNat_fill_count hn hle]
    exact List.length_eq_zero_iff
  simp only [endFill_eq, hempty]

end Filling

/-- Settles O11, by induction on the bytes: each is offered and taken, and then the block is full or EOS ends it. -/
theorem fillTakesABlockInOrder : Obligations.FillTakesABlockInOrder := by
  unfold Obligations.FillTakesABlockInOrder
  intro s bs later rest hinv hp hn he ho hi filled
  have h : Filling s := ⟨hp, he, ho, hi⟩
  obtain ⟨-, -, -, hblk, -⟩ := hinv.registers.legal (by rw [hp]; rfl)
  have hfilled (ended eos : Bool) :
      filled (endFill { s.filledWith bs later rest with inEnded := ended, eos := eos }) := by
    rw [endFill_eq]
    refine ⟨by simp [hn], rfl, rfl, fun k => ?_, rfl, rfl, rfl, rfl, rfl⟩
    simp [hn, read_writeFrom]
  refine ⟨fun hlen hq hs => ⟨_, ?full, hfilled false s.eos, ?fullPhase, ?fullEos⟩,
    fun hlen hq hs => ⟨_, ?short, hfilled true true, ?shortPhase, ?shortEos⟩⟩
  case full =>
    have hend : s.n + BitVec.ofNat 32 bs.length = s.blksz :=
      BitVec.eq_of_toNat_eq ((toNat_fill_count hn hlen.le).trans hlen)
    exact (h.run_bytes 0 (by simp [hn, hlen]) hq hs).trans
      (run_succ 0 (step_of_fill_end rfl (by exact hp) (.inl hend)))
  case fullPhase =>
    have hne : bs ≠ [] := List.length_pos_iff.1 (by omega)
    exact (endFill_filledWith_phase hn hlen.le _ _).trans (if_neg hne)
  case fullEos =>
    rw [endFill_eq]
    exact he
  case short =>
    have hroom : s.n + BitVec.ofNat 32 bs.length ≠ s.blksz := fun e =>
      hlen.ne ((toNat_fill_count hn hlen.le).symm.trans (congrArg _ e))
    exact (h.run_bytes 1 (by simp [hn, hlen.le]) hq hs).trans ((h.filledWith _ _ _).run_eos hroom rfl rfl)
  case shortPhase => exact endFill_filledWith_phase hn hlen.le _ _
  case shortEos => rw [endFill_eq]

/-! ### FINISH -/

/-- Settles O19: with nothing staged and every frame emitted, the sub-step of both EMIT operations is FINISH. -/
theorem emitFinishesTheBlock : Obligations.EmitFinishesTheBlock := by
  unfold Obligations.EmitFinishesTheBlock
  intro i hi s ho him
  rcases hi with rfl | rfl
  · exact congrArg _ (emitStep_finish stageMono ho him)
  · exact congrArg _ (emitStep_finish stageStereo ho him)

/-! ### Waiting -/

section Waiting

variable {s : State}

/-! Every Core step but a wait changes the phase, or uses up what was offered or answered. -/

theorem checkConfig_ne_self (d : Decoder) (hp : s.phase = .check) : checkConfig d s ≠ s := by
  intro h
  have hphase := congrArg State.phase h
  rcases checkConfig_cases d s with ⟨-, e⟩ | ⟨-, -, e⟩ | ⟨-, -, -, e⟩ | ⟨-, -, -, -, e⟩ | ⟨mod, -, -, e⟩ <;>
    simp [e, hp] at hphase

theorem storeNormalized_ne_self (count : Word) (value : Nat → F32) (hp : s.phase = .norm) :
    storeNormalized count value s ≠ s := by
  intro h
  have hphase := congrArg State.phase h
  simp [hp] at hphase

theorem decodeBlock_ne_self (d : Decoder) (cap : Option Nat) (mod : Mod) (hp : s.phase = .decode) :
    decodeBlock d cap mod s ≠ s := by
  intro h
  have hphase := congrArg State.phase h
  unfold decodeBlock at hphase
  rcases checkResponse_cases cap (responseOf d mod s) s with ⟨-, e⟩ | ⟨-, -, -, e⟩ | ⟨-, -, e⟩ <;>
    simp [e, hp] at hphase

/-- READ.BLOCK waits for an item only. -/
theorem fillStep_eq_self_iff (hp : s.phase = .read) :
    fillStep s = s ↔ s.n ≠ s.blksz ∧ s.eos = false ∧ s.offered = none := by
  refine ⟨fun h => ?_, fun ⟨hn, he, ho⟩ => ?_⟩
  · have hphase := congrArg State.phase h
    have hoffered := congrArg State.offered h
    rcases fillStep_cases s with
      ⟨-, -, e⟩ | ⟨-, -, e⟩ | ⟨hn, he, ho, -⟩ | ⟨b, -, -, ho, e⟩ | ⟨-, -, ho, e⟩ | ⟨-, -, ho, e⟩
    · simp [e, hp] at hphase
    · simp [e, hp] at hphase
    · exact ⟨hn, he, ho⟩
    · simp [e, ho] at hoffered
    · simp [e, ho] at hoffered
    · simp [e, ho] at hoffered
  · rw [fillStep_of_room (by simp [hn, he]), takeInput_none ho]

/-- WRITE waits for an answer only. -/
theorem writeByte_eq_self_iff : writeByte s = s ↔ s.answer = none := by
  refine ⟨fun h => ?_, fun ha => ?_⟩
  · have hanswer := congrArg State.answer h
    rcases writeByte_cases s with ⟨ha, -⟩ | ⟨ha, -, e⟩ | ⟨ha, -, e⟩ | ⟨ha, e⟩
    · exact ha
    all_goals simp [e, ha] at hanswer
  · simp only [writeByte, ha]

theorem stageFrame_olen_ne_zero : (stageFrame s).olen ≠ 0 := by
  unfold stageFrame
  split_ifs
  · simp [stageStereo, pcmBytes]
  · simp [stageMono, pcmBytes]

/-- EMIT waits in WRITE only: STAGE needs OLEN = 0 and leaves another, FINISH leaves EMIT, and where the invariant holds
one of the three is enabled. -/
theorem StateInv.emitStep_eq_self_iff (h : StateInv s) (hp : s.phase = .emit) :
    Machine.emitStep Machine.stageFrame s = s ↔ s.opos < s.olen ∧ s.answer = none := by
  refine ⟨fun hself => ?_, fun ⟨ho, ha⟩ => ?_⟩
  · rcases emitStep_cases Machine.stageFrame s with ⟨ho, e⟩ | ⟨ho, -, e⟩ | ⟨-, -, e⟩ | ⟨ho, hi, -⟩
    · exact ⟨ho, writeByte_eq_self_iff.1 (e.symm.trans hself)⟩
    · have holen := congrArg State.olen (e.symm.trans hself)
      exact absurd (holen.trans ho) stageFrame_olen_ne_zero
    · have hphase := congrArg State.phase (e.symm.trans hself)
      simp [hp] at hphase
    · obtain ⟨holen, -⟩ := h.streams.staged.resolve_right fun ⟨hlt, _⟩ => ho hlt
      exact absurd h.buffers.iBound (BitVec.not_le.2 (hi holen))
  · rw [emitStep_write _ ho, writeByte_eq_self_iff.2 ha]

end Waiting

/-- Settles O27: in CHECK, NORM and DECODE the Core's step leaves the phase, and READ and EMIT wait at their handshakes
only. -/
theorem coreWaitsOnlyAtTheTwoHandshakes : Obligations.CoreWaitsOnlyAtTheTwoHandshakes := by
  unfold Obligations.CoreWaitsOnlyAtTheTwoHandshakes
  intro s hinv hcore hs
  obtain ⟨t, hstep⟩ := hinv.coreTurn_answers
  rw [step_of_empty_schedule hs, hstep, Host.Outcome.next.injEq]
  rcases coreTurn_cases hstep with ⟨hp, -⟩ | ⟨hp, rfl⟩ | ⟨hp, rfl⟩ | ⟨hp, -, rfl⟩ | ⟨hp, -, rfl⟩ |
    ⟨mod, hp, -, rfl⟩ | ⟨hp, hn, -⟩ | ⟨hp, hn, -⟩ | ⟨hp, h1, h2, -⟩
  · simp [hp] at hcore
  · simp [hp, checkConfig_ne_self]
  · simp [hp, fillStep_eq_self_iff]
  · simp [hp, storeNormalized_ne_self]
  · simp [hp, storeNormalized_ne_self]
  · simp [hp, decodeBlock_ne_self]
  · cases (coreTurn_emit hp (.inl hn)).symm.trans hstep
    simp [hp, hinv.emitStep_eq_self_iff]
  · cases (coreTurn_emit hp (.inr hn)).symm.trans hstep
    simp [hp, hinv.emitStep_eq_self_iff]
  · exact ((hinv.nch_of_emit hp).elim h1 h2).elim

/-! ### The ends of a run -/

/-- Where the Core has no step, every agent's turn answers a next state. -/
theorem step_answers_of_not_hasCoreStep {s : State} (hp : s.phase.hasCoreStep = false) : ∃ t, step s = .next t := by
  cases hs : s.schedule with
  | nil => exact ⟨s, by rw [step_of_empty_schedule hs, coreTurn_of_not_hasCoreStep hp]⟩
  | cons turn turns =>
    rw [step_of_schedule hs]
    cases turn with
    | core => exact ⟨_, coreTurn_of_not_hasCoreStep (s := { s with schedule := turns }) hp⟩
    | host => exact hostTurn_answers _
    | producer | consumer | reset => exact ⟨_, rfl⟩

/-- Settles O37: in DONE and FAULT the Core has no step, the Host's operations but SRST are reads or are ignored, no
byte is offered to the Consumer, and the Producer may still offer. -/
theorem onlyResetLeavesDoneAndFault : Obligations.OnlyResetLeavesDoneAndFault := by
  unfold Obligations.OnlyResetLeavesDoneAndFault
  intro s hp
  obtain ⟨t, hstep⟩ := step_answers_of_not_hasCoreStep (s := s) (by rcases hp with hp | hp <;> rw [hp] <;> rfl)
  refine ⟨t, hstep, ?_⟩
  cases step_transition hstep
  case reset u => exact .inl (resetValues_resetCore u)
  case same | offer => exact .inr rfl
  case answer ho _ _ =>
    obtain ⟨hemit, -⟩ := (offersByte_iff s).1 ho
    simp [hemit] at hp
  all_goals simp [‹s.phase = _›] at hp

/-! ### The counts of a run -/

/-- The blocks of `len` bytes (spec/43_streaming.md R200). -/
def blockCount (size len : Nat) : Nat := (len + size - 1) / size

theorem blockCount_zero (size : Nat) : blockCount size 0 = 0 := by
  rw [blockCount, Nat.zero_add]
  rcases Nat.eq_zero_or_pos size with rfl | h
  · rfl
  · exact Nat.div_eq_of_lt (by omega)

/-- A full block, or the short one at the end, is one block more. -/
theorem blockCount_add {size n left : Nat} (hpos : 0 < n) (h : n = size ∨ n ≤ size ∧ left = 0) :
    blockCount size (n + left) = blockCount size left + 1 := by
  rcases h with rfl | ⟨hle, rfl⟩
  · rw [blockCount, blockCount, ← Nat.add_div_right _ hpos]
    congr 1
    omega
  · rw [blockCount_zero, blockCount, Nat.div_eq_iff (by omega)]
    omega

/-- How many bytes before EOS the Core has not taken, where `later` follows EOS. -/
def State.bytesLeft (s : State) (later : List InItem) : Nat :=
  if s.eos then 0 else s.offered.toList.length + s.producerQ.length - (later.length + 1)

/-- The decoder calls still to make for `left` bytes to take and those of the present block. -/
def State.callsLeft (s : State) (left : Nat) : Nat :=
  match s.phase with
  | .read => blockCount s.blksz.toNat (s.n.toNat + left)
  | .norm | .decode => blockCount s.blksz.toNat left + 1
  | .emit => blockCount s.blksz.toNat left
  | .idle | .check | .done | .fault => 0

/-- The counts of a run past CHECK on an input, with `left` bytes of it still to take. -/
structure Tally (input : List Byte) (left : Nat) (s : State) : Prop where
  incnt : s.incnt + BitVec.ofNat 32 left = BitVec.ofNat 32 input.length
  blkcnt : s.blkcnt + BitVec.ofNat 32 (s.callsLeft left) = BitVec.ofNat 32 (blockCount s.blksz.toNat input.length)
  ended : s.phase = .done → s.lastn = 0
  /-- No byte and no block comes from an empty input. -/
  empty : input = [] → left = 0 ∧ s.n = 0 ∧ s.outBytes = []

/-- The invariant of a run without a reset: past CHECK its counts are those of its input. -/
def Tallied (input : List Byte) (later : List InItem) (s : State) : Prop :=
  s.phase.afterCheck = true → Tally input (s.bytesLeft later) s

section Tally

variable {input untaken : List Byte} {later : List InItem} {left : Nat} {s : State}

/-! What is left to take, and to call. -/

theorem Progress.bytesLeft (h : Progress input later untaken s) : s.bytesLeft later = untaken.length := by
  unfold State.bytesLeft
  rcases h.stream with ⟨he, hq⟩ | ⟨he, rfl⟩
  · have hlen := congrArg List.length hq
    simp only [List.length_append, List.length_map, List.length_cons] at hlen
    rw [he, if_neg (by simp), hlen]
    omega
  · simp [he]

theorem bytesLeft_of_eos (he : s.eos = true) : s.bytesLeft later = 0 := if_pos he

/-- The byte offered is one of those left until it is taken. -/
theorem Progress.bytesLeft_of_byte (h : Progress input later untaken s) (he : s.eos = false) {b : Byte}
    (ho : s.offered = some (.byte b)) (turns : List Turn) (raw : Memory Byte) (n incnt : Word) :
    s.bytesLeft later =
      State.bytesLeft { s with schedule := turns, offered := none, raw := raw, n := n, incnt := incnt } later + 1 := by
  have hq := h.untaken_of_offered he ho
  rw [h.bytesLeft, State.bytesLeft]
  cases untaken with
  | nil => simp at hq
  | cons b' rest => simp [he, (List.cons.inj hq).2]

/-- EOS is offered after every byte is taken. -/
theorem Progress.bytesLeft_of_offered_eos (h : Progress input later untaken s) (he : s.eos = false)
    (ho : s.offered = some .eos) : s.bytesLeft later = 0 := by
  have hq := h.untaken_of_offered he ho
  rw [h.bytesLeft]
  cases untaken with
  | nil => rfl
  | cons b rest => simp at hq

/-- An item offered is still to take. -/
theorem bytesLeft_of_offer {x : InItem} {rest : List InItem} (ho : s.offered = none) (hq : s.producerQ = x :: rest)
    (turns : List Turn) (ended : Bool) :
    State.bytesLeft { s with schedule := turns, offered := some x, inEnded := ended, producerQ := rest } later =
      s.bytesLeft later := by
  simp [State.bytesLeft, ho, hq, Nat.add_comm]

theorem callsLeft_read (hp : s.phase = .read) :
    s.callsLeft left = blockCount s.blksz.toNat (s.n.toNat + left) := by
  simp only [State.callsLeft, hp]

theorem callsLeft_norm (hp : s.phase = .norm) : s.callsLeft left = blockCount s.blksz.toNat left + 1 := by
  simp only [State.callsLeft, hp]

theorem callsLeft_decode (hp : s.phase = .decode) : s.callsLeft left = blockCount s.blksz.toNat left + 1 := by
  simp only [State.callsLeft, hp]

theorem callsLeft_emit (hp : s.phase = .emit) : s.callsLeft left = blockCount s.blksz.toNat left := by
  simp only [State.callsLeft, hp]

/-- A fill that ends empty has taken EOS (spec/43_streaming.md R192). -/
theorem StateInv.eos_of_empty_fill (hinv : StateInv s) (hp : s.phase = .read) (hend : s.n = s.blksz ∨ s.eos = true)
    (hn : s.n = 0) : s.eos = true := by
  obtain ⟨-, -, -, hblk, -⟩ := hinv.registers.legal (by rw [hp]; rfl)
  exact hend.resolve_left fun hb => by simp [← hb, hn] at hblk

/-! Each transition past CHECK keeps the counts. -/

theorem Progress.tally_of_check (h : Progress input later untaken s) (hinv : StateInv s) (hp : s.phase = .check)
    (turns : List Turn) (d : DecState) :
    Tally input (s.bytesLeft later) { s with schedule := turns, dstate := some d, n := 0, phase := .read } where
  incnt := by
    obtain ⟨-, -, -, hin, -⟩ := hinv.registers.untouched (.inr hp)
    obtain ⟨-, rfl⟩ := h.fresh (.inr hp)
    simp [h.bytesLeft, hin]
  blkcnt := by
    obtain ⟨-, -, hblk, -⟩ := hinv.registers.untouched (.inr hp)
    obtain ⟨-, rfl⟩ := h.fresh (.inr hp)
    simp [h.bytesLeft, hblk, State.callsLeft]
  ended := nofun
  empty := by
    obtain ⟨hout, rfl⟩ := h.fresh (.inr hp)
    rintro rfl
    exact ⟨h.bytesLeft, rfl, hout⟩

theorem Tally.fill_done (h : Tally input left s) (hp : s.phase = .read) (hn : s.n = 0) (hleft : left = 0)
    (turns : List Turn) :
    Tally input left { s with schedule := turns, lastn := s.n, phase := .done, oclosed := true } :=
  { h with
    blkcnt := by
      rw [← h.blkcnt, callsLeft_read hp, hn, hleft]
      exact congrArg (s.blkcnt + BitVec.ofNat 32 ·) (blockCount_zero _).symm
    ended := fun _ => hn }

theorem Tally.fill_norm (h : Tally input left s) (hp : s.phase = .read) (hn : s.n ≠ 0)
    (hfull : s.n.toNat = s.blksz.toNat ∨ s.n.toNat ≤ s.blksz.toNat ∧ left = 0) (turns : List Turn) :
    Tally input left { s with schedule := turns, lastn := s.n, phase := .norm } :=
  { h with
    blkcnt := by
      rw [← h.blkcnt, callsLeft_read hp, blockCount_add (by bv_omega) hfull]
      rfl
    ended := nofun }

theorem Tally.byte_taken (h : Tally input (left + 1) s) (hp : s.phase = .read)
    (hroom : s.n.toNat < s.blksz.toNat) (b : Byte) (turns : List Turn) :
    Tally input left { s with
      schedule := turns, offered := none, raw := s.raw.write s.n.toNat b, n := s.n + 1, incnt := s.incnt + 1 } where
  incnt := by
    rw [← h.incnt, Nat.add_comm, BitVec.ofNat_add, ← BitVec.add_assoc]
    rfl
  blkcnt := by
    have hn : (s.n + 1).toNat + left = s.n.toNat + (left + 1) := by bv_omega
    rw [← h.blkcnt, callsLeft_read hp, callsLeft_read (by exact hp), ← hn]
  ended hp' := by simp [hp] at hp'
  empty hi := absurd (h.empty hi).1 (Nat.succ_ne_zero left)

/-- A block in process has come from an input that is not empty. -/
theorem Tally.input_ne_nil (h : Tally input left s) (hinv : StateInv s) (hp : s.phase.inBlock = true) : input ≠ [] := by
  intro hi
  obtain ⟨hne, -⟩ := hinv.streams.blockNotEmpty hp
  obtain ⟨-, hn, -⟩ := h.empty hi
  exact hne hn

theorem Tally.normalized (h : Tally input left s) (hp : s.phase = .norm) (turns : List Turn) (norm : Memory F32)
    (ns : Word) : Tally input left { s with schedule := turns, norm := norm, ns := ns, phase := .decode } :=
  { h with
    blkcnt := by
      rw [← h.blkcnt, callsLeft_norm hp]
      rfl
    ended := nofun }

theorem Tally.called (h : Tally input left s) (hp : s.phase = .decode) (turns : List Turn) (d : DecState) (m : Word)
    (audL audR : Memory F32) : Tally input left { s with
      schedule := turns, dstate := some d, m := m, audL := audL, audR := audR, blkcnt := s.blkcnt + 1, i := 0,
      olen := 0, opos := 0, phase := .emit } :=
  { h with
    blkcnt := by
      rw [← h.blkcnt, callsLeft_decode hp, Nat.add_comm, BitVec.ofNat_add, ← BitVec.add_assoc]
      rfl
    ended := nofun }

theorem Tally.finished (h : Tally input left s) (hp : s.phase = .emit) (turns : List Turn) :
    Tally input left { s with schedule := turns, n := 0, phase := .read } :=
  { h with
    blkcnt := by
      rw [← h.blkcnt, callsLeft_emit hp, callsLeft_read (by rfl)]
      exact congrArg (fun len => s.blkcnt + BitVec.ofNat 32 (blockCount _ len)) (Nat.zero_add left)
    ended := nofun
    empty := fun hi => by
      obtain ⟨hleft, -, hout⟩ := h.empty hi
      exact ⟨hleft, rfl, hout⟩ }

/-- A state that is not past CHECK claims nothing; otherwise the transition moves a byte or a block from what is left to
what is counted, or neither. -/
theorem Tallied.step {t : State} (ht : Tallied input later s) (h : Progress input later untaken s) (hinv : StateInv s)
    (hstep : step s = .next t) : Tallied input later t := by
  intro hc
  have past {p : Phase} (hp : s.phase = p) (hc : p.afterCheck = true) : Tally input (s.bytesLeft later) s :=
    ht (by rw [hp]; exact hc)
  cases step_transition hstep
  case reset | start | checkFault | fillErr | decFault | writeErr => cases hc
  case write hp => simp [hp, Phase.afterCheck] at hc
  case same | writeWait | stuck | answer | stageMono | stageStereo => exact { ht hc with }
  case checkOk d hp _ => exact h.tally_of_check hinv hp _ d
  case fillDone hp hend hn =>
    exact (past hp rfl).fill_done hp hn (bytesLeft_of_eos (hinv.eos_of_empty_fill hp hend hn)) _
  case fillNorm hp hend hn =>
    refine (past hp rfl).fill_norm hp hn ?_ _
    exact hend.imp (congrArg _) fun he => ⟨hinv.buffers.nBound.1, bytesLeft_of_eos he⟩
  case fillByte b hp hn he ho =>
    obtain ⟨hroom, -⟩ := hinv.room_in_fill hp hn
    refine Tally.byte_taken ?_ hp hroom b _
    rw [← h.bytesLeft_of_byte he ho]
    exact past hp rfl
  case fillEos hp hn he ho =>
    have ht := past hp rfl
    rw [h.bytesLeft_of_offered_eos he ho] at ht
    exact { ht with }
  case norm hp => exact (past hp rfl).normalized hp _ _ _
  case decOk hp _ => exact (past hp rfl).called hp _ _ _ _ _
  case writeLast hp _ _ _ | writeMore hp _ _ _ =>
    have ht := past hp rfl
    exact { ht with empty := fun hi => absurd hi (ht.input_ne_nil hinv (by rw [hp]; rfl)) }
  case finish hp _ _ => exact (past hp rfl).finished hp _
  case quant hp h1 h2 => exact ((hinv.nch_of_emit hp).elim h1 h2).elim
  case offer x rest ho hi hq =>
    have ht := ht hc
    rw [← bytesLeft_of_offer ho hq s.schedule.tail (endsStream x)] at ht
    exact { ht with }

theorem Tallied.run {t : State} {k : Nat} (ht : Tallied input later s) (h : Progress input later untaken s)
    (hinv : StateInv s) (hrun : Sys2Proof.core.run k s = .next t) : Tallied input later t := by
  induction k generalizing s untaken with
  | zero =>
    cases hrun
    exact ht
  | succ k ih =>
    obtain ⟨u, hstep, hrun⟩ := run_succ_cases hrun
    obtain ⟨untaken', hu⟩ := h.step hinv hstep
    exact ih (ht.step h hinv hstep) hu (everyStepKeepsTheInvariant s u hinv hstep) hrun

end Tally

/-- Settles O46: what is counted and what is left make up the counts of the input in every state of the run past CHECK,
and in DONE nothing is left. -/
theorem runsReachingDoneCountTheirInput : Obligations.RunsReachingDoneCountTheirInput := by
  unfold Obligations.RunsReachingDoneCountTheirInput
  intro turns host input later answers k t hno hrun hp
  have hstart := progress_planned hno input later answers
  have hinv := stateInv_planned turns host input later answers
  obtain ⟨hinv', -⟩ := hstart.run hinv hrun
  have hzero : Tallied input later (State.planned turns host input later answers) := nofun
  have htally := hzero.run hstart hinv hrun (by rw [hp]; rfl)
  have heos := hinv'.registers.doneAtEos hp
  rw [bytesLeft_of_eos heos] at htally
  refine ⟨by simpa using htally.incnt, ?_, htally.ended hp, heos, hinv'.err_none (by simp [hp]), fun hi => ?_⟩
  · simpa [State.callsLeft, hp, blockCount] using htally.blkcnt
  · obtain ⟨-, -, hout⟩ := htally.empty hi
    exact hout

end Sys2Proof.Machine

/-! PROOFS. Host control (spec/44_control.md): what a register's offset names on the bus, what SRST, START, REG.WR,
REG.RD and CHECK answer, and the exit status of an ended run. -/

namespace Sys2Proof.Machine

/-! ### SRST and START -/

theorem exec_srst (s : State) : exec .srst s = .next (resetCore s) := rfl

/-- Settles O2: SRST tests no phase, and a reset leaves the values of R44. -/
theorem srstResetsFromEveryState : Obligations.SrstResetsFromEveryState := by
  unfold Obligations.SrstResetsFromEveryState
  exact fun s => ⟨resetCore s, exec_srst s, resetValues_resetCore s⟩

theorem exec_start (s : State) :
    exec .start s = .next (if s.phase = .idle then { s with phase := .check } else s) := rfl

/-- Settles O4: the phase is the only thing START tests. -/
theorem startMovesIdleToCheck : Obligations.StartMovesIdleToCheck := by
  unfold Obligations.StartMovesIdleToCheck
  intro s
  constructor <;> intro hp
  · rw [exec_start, if_pos hp]
  · rw [exec_start, if_neg hp]

/-! ### The registers on the bus -/

/-- The reserved and the misaligned offsets (spec/20_memory.md R64, spec/30_encoding.md R101). -/
theorem regAt_eq_none {off : BitVec 8} (h : off.toNat % 4 ≠ 0 ∨ 0x30 ≤ off.toNat) : regAt off = none := by
  unfold regAt
  split
  case h_13 => rfl
  all_goals omega

section Bus

variable {off : BitVec 8} {data : Word} {s : State}

theorem exec_regWr_of_no_register (h : regAt off = none) : exec (.regWr off data) s = .next s := by
  simp only [exec, execRegWr, busWrite, h]

theorem exec_regWr_of_not_idle (hp : s.phase ≠ .idle) : exec (.regWr off data) s = .next s := by
  rcases busWrite_cases off data s with e | ⟨hidle, -⟩
  · exact congrArg _ e
  · exact absurd hidle hp

theorem exec_regWr_of_idle (hp : s.phase = .idle) (r : RegName) :
    exec (.regWr (regOffset r) data) s = .next (writeReg data s r) := by
  simp only [exec, execRegWr, busWrite, regAt_regOffset, if_pos hp]

/-- A register that a write leaves alone in IDLE ignores it in every phase. -/
theorem exec_regWr_of_unwritten (r : RegName) (h : writeReg data s r = s) :
    exec (.regWr (regOffset r) data) s = .next s := by
  by_cases hp : s.phase = .idle
  · rw [exec_regWr_of_idle hp, h]
  · exact exec_regWr_of_not_idle hp

theorem exec_regRd_of_no_register (h : regAt off = none) :
    exec (.regRd off) s = .next { s with hostReads := s.hostReads ++ [0] } := by
  simp only [exec, execRegRd, busRead, h]

theorem exec_regRd (s : State) (r : RegName) :
    exec (.regRd (regOffset r)) s = .next { s with hostReads := s.hostReads ++ [readReg s r] } := by
  simp only [exec, execRegRd, busRead, regAt_regOffset]

end Bus

/-- Settles O5: an offset without a register, a register that no write reaches, a phase that takes no write, and the six
registers that store. -/
theorem regWriteStoresOnlyInIdle : Obligations.RegWriteStoresOnlyInIdle := by
  unfold Obligations.RegWriteStoresOnlyInIdle
  intro off data s
  refine ⟨fun h => exec_regWr_of_no_register (regAt_eq_none h), fun h => ?readOnly, exec_regWr_of_not_idle,
    fun hp => ⟨?cfg, ?blksz, ?inRate, ?outRate, ?bandwidth, ?maxDev⟩⟩
  case readOnly =>
    simp only [List.mem_cons, List.not_mem_nil, or_false] at h
    rcases h with rfl | rfl | rfl | rfl | rfl | rfl
    · exact exec_regWr_of_unwritten .CTRL rfl
    · exact exec_regWr_of_unwritten .STATUS rfl
    · exact exec_regWr_of_unwritten .BLKCNT rfl
    · exact exec_regWr_of_unwritten .INCNT rfl
    · exact exec_regWr_of_unwritten .OUTCNT rfl
    · exact exec_regWr_of_unwritten .LASTN rfl
  case cfg => rintro rfl; exact exec_regWr_of_idle hp .CFG
  case blksz => rintro rfl; exact exec_regWr_of_idle hp .BLKSZ
  case inRate => rintro rfl; exact exec_regWr_of_idle hp .IN_RATE
  case outRate => rintro rfl; exact exec_regWr_of_idle hp .OUT_RATE
  case bandwidth => rintro rfl; exact exec_regWr_of_idle hp .BANDWIDTH
  case maxDev => rintro rfl; exact exec_regWr_of_idle hp .MAX_DEV

/-- Settles O6: an offset without a register reads 0, and each of the twelve registers reads as `readReg` gives it. -/
theorem regReadReturnsTheRegister : Obligations.RegReadReturnsTheRegister := by
  unfold Obligations.RegReadReturnsTheRegister
  intro off s
  refine ⟨fun h => exec_regRd_of_no_register (regAt_eq_none h), ?_, ?_, ?_, ?_, ?_, ?_, ?_, ?_, ?_, ?_, ?_, ?_⟩ <;>
    rintro rfl
  · exact exec_regRd s .CFG
  · exact exec_regRd s .BLKSZ
  · exact exec_regRd s .IN_RATE
  · exact exec_regRd s .OUT_RATE
  · exact exec_regRd s .BANDWIDTH
  · exact exec_regRd s .MAX_DEV
  · exact exec_regRd s .CTRL
  · exact exec_regRd s .STATUS
  · exact exec_regRd s .BLKCNT
  · exact exec_regRd s .INCNT
  · exact exec_regRd s .OUTCNT
  · exact exec_regRd s .LASTN

/-! ### CHECK -/

theorem blockLegal_eq_false_iff (b : Nat) : blockLegal b = false ↔ b < 2 ∨ Config.maxBlock < b := by
  rw [← Bool.not_eq_true, blockLegal_iff, not_and_or, not_le, not_le]

theorem exec_check_of_no_variant {s : State} (hm : modOf s.cfgMod = none) :
    exec .check s = .next (raiseFault .cfgMod s) := by
  simp only [exec, execCheck, checkConfig, hm]

/-- Where MOD names a variant, the other three tests are left. -/
theorem exec_check_of_modOf {s : State} {mod : Mod} (hm : modOf s.cfgMod = some mod) :
    exec .check s = .next (
      if s.cfgEnc = 2 ∨ s.cfgEnc = 3 then raiseFault .cfgEnc s
      else if s.cfgNch = 0 ∨ s.cfgNch = 3 then raiseFault .cfgNch s
      else if blockLegal s.blksz.toNat = false then raiseFault .cfgBlk s
      else { constructDecoder Config.decoder mod s with n := 0, phase := .read }) := by
  simp only [exec, execCheck, checkConfig, hm, Bool.not_eq_true']

theorem exists_modOf {c : BitVec 2} (h : c ≠ 3) : ∃ mod, modOf c = some mod :=
  Option.ne_none_iff_exists'.1 (mt (modOf_eq_none_iff c).1 h)

/-- Settles O8: a reserved MOD leaves no other test; past it, each test that passes leaves the ones after it. -/
theorem checkFaultsInOrderOrStartsTheRun : Obligations.CheckFaultsInOrderOrStartsTheRun := by
  unfold Obligations.CheckFaultsInOrderOrStartsTheRun
  intro s
  refine ⟨fun hmod => exec_check_of_no_variant ((modOf_eq_none_iff _).2 hmod),
    fun hmod henc => ?enc, fun hmod henc hnch => ?nch, fun hmod henc hnch hblk => ?blk,
    fun mod hmod henc hnch hblk => ?starts⟩
  case starts =>
    have hm := (modOf_eq_some_iff _ _).2 hmod
    rw [exec_check_of_modOf hm, if_neg henc, if_neg hnch, if_neg (mt (blockLegal_eq_false_iff _).1 hblk)]
    rfl
  all_goals
    obtain ⟨mod, hm⟩ := exists_modOf hmod
    rw [exec_check_of_modOf hm]
  case enc => rw [if_pos henc]; rfl
  case nch => rw [if_neg henc, if_pos hnch]; rfl
  case blk => rw [if_neg henc, if_neg hnch, if_pos ((blockLegal_eq_false_iff _).2 hblk)]; rfl

/-! ### The exit status -/

theorem exitStatus_of_ended {s : State} (hp : s.phase = .done ∨ s.phase = .fault) :
    s.exitStatus = some (decide (s.err = .none)) := by
  unfold State.exitStatus
  rcases hp with hp | hp <;> rw [hp]

theorem exitStatus_of_not_ended {s : State} (hd : s.phase ≠ .done) (hf : s.phase ≠ .fault) :
    s.exitStatus = none := by
  unfold State.exitStatus
  split
  · exact absurd ‹_› hd
  · exact absurd ‹_› hf
  all_goals rfl

/-- Settles O45: a code is held in FAULT, and none in DONE. -/
theorem exitStatusIsSuccessExactlyInDone : Obligations.ExitStatusIsSuccessExactlyInDone := by
  unfold Obligations.ExitStatusIsSuccessExactlyInDone
  intro s hinv
  by_cases hf : s.phase = .fault
  · have herr := hinv.registers.errInFault.2 hf
    simp [exitStatus_of_ended (.inr hf), herr, hf]
  by_cases hd : s.phase = .done
  · simp [exitStatus_of_ended (.inl hd), hinv.err_none hf, hd]
  · simp [exitStatus_of_not_ended hd hf, hd, hf]

end Sys2Proof.Machine

/-! PROOFS. Faults (spec/60_exceptions.md): what a step into FAULT writes, and the code of each phase. -/

namespace Sys2Proof.Machine

/-- Settles O36: of the transitions of a step, one for each of CHECK, READ, EMIT and DECODE goes to FAULT; every other
one names another phase or keeps the phase. -/
theorem faultsArePrecise : Obligations.FaultsArePrecise := by
  unfold Obligations.FaultsArePrecise
  intro s t hstep hs ht
  cases step_transition hstep with
  | checkFault c hc hp => exact ⟨rfl, .inl ⟨hp, hc, rfl, rfl⟩⟩
  | fillErr hp _ _ ho => exact ⟨rfl, .inr (.inl ⟨hp, rfl, ho, rfl, rfl⟩)⟩
  | writeErr hp _ ha => exact ⟨rfl, .inr (.inr (.inl ⟨hp, rfl, ha, rfl, rfl⟩))⟩
  | decFault c hc hp => exact ⟨rfl, .inr (.inr (.inr ⟨hp, hc, rfl, rfl⟩))⟩
  -- another phase is entered
  | reset | start | checkOk | fillDone | fillNorm | norm | decOk | finish => cases ht
  -- the phase is kept
  | same | write | fillByte | fillEos | stageMono | stageStereo | writeLast | writeMore | writeWait | stuck | offer
  | answer => exact absurd ht hs
  | quant =>
    rw [quantize_frame] at ht
    exact absurd ht hs

end Sys2Proof.Machine

/-! PROOFS. Reset and hazards (spec/70_reset_and_hazards.md): what the reset input RST does, and what it leaves. -/

namespace Sys2Proof.Machine

/-- A reset keeps the Host's words and the three plans. -/
theorem sameEnvironment_resetCore (s : State) : SameEnvironment s (resetCore s) where
  hostReads := resetCore_hostReads s
  hostQ := resetCore_hostQ s
  producerQ := resetCore_producerQ s
  consumerQ := resetCore_consumerQ s

/-- The reset input's turn is a reset of the state without that turn (spec/70_reset_and_hazards.md R270). -/
theorem step_of_reset_turn {s : State} {rest : List Turn} (hs : s.schedule = .reset :: rest) :
    step s = .next (resetCore { s with schedule := rest }) := by
  rw [step_of_schedule hs, takeTurn]

/-- Settles O3: the reset turn and SRST both answer `resetCore`, whose bytes, plans and values are those it was
shown to keep or set. -/
theorem hardwareResetActsAsSrst : Obligations.HardwareResetActsAsSrst := by
  unfold Obligations.HardwareResetActsAsSrst
  intro s rest hs
  have hstep := step_of_reset_turn hs
  refine ⟨hstep.trans (exec_srst _).symm, _, hstep, resetValues_resetCore _, ?environment, resetCore_schedule _,
    resetCore_pastOutputs _⟩
  case environment => exact { sameEnvironment_resetCore { s with schedule := rest } with }

end Sys2Proof.Machine
